-- ==== Sys2Proof/Word.lean ====
section
/-! DEFINITION. The bit widths QMDEC's values have (00_scope.md R7, R17): bytes of the bitstream, 16-bit samples,
32-bit stored words. -/

namespace Sys2Proof

/-- A byte of the packet, of the intermediate buffer or of the host's output buffer. -/
abbrev Byte := BitVec 8

/-- A 16-bit value: a pixel sample, a mask, a delta, a literal (R7). -/
abbrev Half := BitVec 16

/-- A 32-bit value: a stored offset, a literal pair, a table entry (R7). -/
abbrev Word := BitVec 32

end Sys2Proof
end

