-- ==== Sys2Proof/Config.lean ====
section
/-! DEFINITION. The configuration `CFG` (10_state.md R20, R21): the parameters P1 to P19 of 92_eei_decisions.md as
plain data.  A parameter that the spec calls "any function" has a variant naming an implementation by number; what that
implementation computes is an uninterpreted constant of this file, so that no proof can see it (log 2).
`Config.tc0` is the spec's test configuration TC0 (92_eei_decisions.md D41). -/

namespace Sys2Proof

/-- The three fatal errors (60_exceptions.md R260-R264). -/
inductive Err where
  /-- `INVALID_DATA`: a malformed header or a cursor overrun (R261, R263). -/
  | invalidData
  /-- `UNSUPPORTED`: a variant the block rejects (R262). -/
  | unsupported
  /-- `ALLOC_FAIL`: the frame store or `IBUF` cannot be allocated (R264). -/
  | allocFail
  deriving DecidableEq, Repr, Inhabited

/-- A half-open byte range `[start, stop)` of one memory (41_readers.md R125). -/
structure Region where
  start : Nat
  stop : Nat
  deriving DecidableEq, Repr, Inhabited

/-- The four physical byte cursors that the logical ones of a reader set may be mapped to (90_conflicts.md C1:
"any physical count from one to four is a valid configuration"). -/
inductive Phys where
  | p0 | p1 | p2 | p3
  deriving DecidableEq, Repr, Inhabited

/-- Which physical byte cursor each logical A9LL byte cursor is (41_readers.md R144, parameter P6). -/
structure A9Map where
  maskc : Phys
  litc : Phys
  tabc : Phys
  edgelit : Phys
  deriving DecidableEq, Repr, Inhabited

/-- What `P6.layout` returns (30_encoding.md R72): the stored offsets it read, a region for each physical cursor, the
logical-to-physical map, and the layout's own validity condition. -/
structure A9Regions where
  offsets : List Nat
  bit1 : Region
  bit2 : Region
  byte0 : Region
  byte1 : Region
  byte2 : Region
  byte3 : Region
  map : A9Map
  valid : Bool
  deriving DecidableEq, Repr, Inhabited

/-- What `P13` returns: the depth-1 regions and the layout's own validity condition (41_readers.md R142). -/
structure W2Regions where
  tab : Region
  idx : Region
  lit : Region
  valid : Bool
  deriving DecidableEq, Repr, Inhabited

/-- What `P14` returns for the depth-2 reader set (41_readers.md R143): the size `S`, the flag-bit region and the byte
regions. -/
structure D2Regions where
  size : Nat
  bits : Region
  byte0 : Region
  byte1 : Region
  byte2 : Region
  byte3 : Region
  valid : Bool
  deriving DecidableEq, Repr, Inhabited

/-- A field of the flag bytes: its bit numbers, most significant first (P1).  In the pair `flagsA`/`flagsB` (or
`flagsC`/`flagsD`) bits 0-7 are the first byte's and bits 8-15 the second's. -/
abbrev FlagField := List (Fin 16)

/-- The places of the `flagsA`/`flagsB` fields in one layout (40_header.md R104, parameter P1). -/
structure FlagsABLayout where
  transparency : Fin 16
  animated : Fin 16
  extraException : Fin 16
  dynamicTable : Fin 16
  encoderMode : FlagField
  depth : FlagField
  deriving DecidableEq, Repr

/-- The places of the `flagsC`/`flagsD` fields in one layout (40_header.md R106, parameter P1). -/
structure FlagsCDLayout where
  gray : Fin 16
  indexColor : Fin 16
  premultiplied : Fin 16
  isOpaque : Fin 16
  ninePatch : Fin 16
  notAlphaComposited : Fin 16
  deriving DecidableEq, Repr

/-- P5 `DELTA_SELECT`: which of the two constant tables a version uses. -/
inductive DeltaSelect where
  /-- Table 0 up to and including this version, table 1 above it. -/
  | above (threshold : Byte)
  /-- Table 1 for exactly these versions (any division of the versions can be written so). -/
  | oneOf (versions : List Byte)
  deriving DecidableEq, Repr

/-- P6 `A9LL_LAYOUT`. -/
inductive A9Layout where
  /-- The layout of 30_encoding.md R72's table. -/
  | tc0
  /-- An implementation's own layout function. -/
  | impl (id : Nat)
  deriving DecidableEq, Repr

/-- A direction of prediction (42_a9ll_intra.md R165). -/
inductive Dir where
  | up | left | upLeft
  deriving DecidableEq, Repr, Inhabited

/-- P7 `DIR_MAP`: the direction of tile modes 0, 1 and 2. -/
structure DirMap where
  mode0 : Dir
  mode1 : Dir
  mode2 : Dir
  deriving DecidableEq, Repr

/-- P9 `QP_GATE`: the "qp==0 or explicit bit" predicate. -/
inductive QpGate where
  /-- `qp` and the explicit bits are bits of the flag bytes, `flagsA` bits 0-7 up to `flagsD` bits 24-31. -/
  | fields (qp : List (Fin 32)) (explicit : List (Fin 32))
  /-- An implementation's own predicate of the packet. -/
  | impl (id : Nat)
  deriving DecidableEq, Repr

/-- P10 `MV_AXIS`: which field is horizontal (30_encoding.md R79). -/
inductive MvAxis where
  | aIsX | aIsY
  deriving DecidableEq, Repr

/-- P11 `INTER_INIT`: the initial `F` of an inter frame. -/
inductive InterInit where
  | const (v : Half)
  | impl (id : Nat)
  deriving DecidableEq, Repr

/-- P12 `FIRST_FRAME`: the first-frame test. -/
inductive FirstFrame where
  | currentIsZero
  | impl (id : Nat)
  deriving DecidableEq, Repr

/-- Where a depth-1 frame's regions lie (part of P13). -/
inductive W2RegionRule where
  /-- The table of 30_encoding.md R73, its 16-byte header `offset` bytes after the base; the first length counts
  4-byte entries, or bytes when `inBytes`. -/
  | header (offset : Nat) (inBytes : Bool)
  | impl (id : Nat)
  deriving DecidableEq, Repr

/-- Which depth-1 cursor supplies run lengths (part of P13, 90_conflicts.md C2). -/
inductive RunFrom where
  | idx | lit
  deriving DecidableEq, Repr

/-- P13 `W2_D1_LAYOUT`. -/
structure W2Layout where
  regions : W2RegionRule
  runFrom : RunFrom
  deriving DecidableEq, Repr

/-- A prefix code read bit by bit from a bit cursor. -/
inductive PrefixCode (α : Type) where
  | leaf (a : α)
  | node (zero one : PrefixCode α)
  deriving DecidableEq, Repr

/-- The three kinds of a depth-2 16-bit value (45_w2_depth2.md R223). -/
inductive ValueKind where
  | backref | xor | lit
  deriving DecidableEq, Repr

/-- The three kinds of a later strip (45_w2_depth2.md R226). -/
inductive StripKind where
  | verb | back | strip2
  deriving DecidableEq, Repr

/-- What a flag value of `D2.DIST` selects (45_w2_depth2.md R224). -/
inductive DistOp where
  | keep | byte | half
  deriving DecidableEq, Repr

/-- `P14.xor_base`, the operand that a table entry is XORed with (45_w2_depth2.md R223). -/
inductive XorBase where
  | const (v : Half)
  /-- The 16-bit value just before the write position. -/
  | previous
  /-- The 16-bit value at the current distance. -/
  | atDistance
  | impl (id : Nat)
  deriving DecidableEq, Repr

/-- Where `S` is stored and where the depth-2 cursors lie (part of P14). -/
inductive D2Layout where
  /-- Six u32 at the data start (`S`, then the byte lengths of the flag-bit region and of four byte regions), then the
  five regions one after another.  A layout of the MODEL's, so that depth-2 symbols can be run (log 2). -/
  | consecutive
  | impl (id : Nat)
  deriving DecidableEq, Repr

/-- P14 `W2_D2_CODING`: everything of depth 2 listed in 91_not_in_source.md N10, but for the unit of the distance, which
45_w2_depth2.md R224 states: it counts bytes. -/
structure D2Coding where
  layout : D2Layout
  dist0 : Nat
  /-- The kind code of each of the six values of `D2.STRIP1`. -/
  kind1 : List (PrefixCode ValueKind)
  /-- The strip selector; `none` is a code assigned to no strip kind. -/
  selector : PrefixCode (Option StripKind)
  /-- The kind code of each of the eight values of `D2.STRIP2`, for its mask bit clear and set. -/
  kind2 : List (PrefixCode ValueKind × PrefixCode ValueKind)
  /-- The mask bit of each of the eight values. -/
  maskBit : List (Fin 8)
  /-- The presence mask is eight bits of `D2B`, or else a byte of the mask cursor. -/
  maskInBits : Bool
  distIfClear : DistOp
  distIfSet : DistOp
  xtab : List Half
  xorBase : XorBase
  litCur : Phys
  distCur : Phys
  keyCur : Phys
  maskCur : Phys
  deriving DecidableEq, Repr

/-- The part of P15 that says where the data region of an index-colour frame starts (40_header.md R111). -/
inductive IndexStart where
  /-- At `header_size`. -/
  | atHeader
  /-- After the index-colour words. -/
  | afterWords
  deriving DecidableEq, Repr

/-- The part of P15 that says what the samples of an index-colour frame mean (91_not_in_source.md N15).  That the meaning
is a function of the decoded frame, applied at completion, is the model's form (DESIGN CHOICE, log 14). -/
inductive IndexMeaning where
  /-- The decoded samples are the frame: no palette step. -/
  | samples
  /-- An implementation's own reading of them, for example through a palette. -/
  | impl (id : Nat)
  deriving DecidableEq, Repr

/-- P15 `INDEX_COLOR_HDR`: data start and meaning of a frame with `index_color = 1` (40_header.md R111). -/
inductive IndexColor where
  | refuse
  | decode (start : IndexStart) (meaning : IndexMeaning)
  deriving DecidableEq, Repr

/-- P15 puts the data region after the index-colour words. -/
def IndexColor.dataAfterWords : IndexColor → Bool
  | .decode .afterWords _ => true
  | _ => false

/-- P18 `NATIVE_ENDIAN`: byte order of a pixel in the host's buffer. -/
inductive Endian where
  | little | big
  deriving DecidableEq, Repr

/-- P19 `INTRA_PARTIAL`: what becomes of an intra frame whose size is not a multiple of 4 (42_a9ll_intra.md R163). -/
inductive IntraPartial where
  | refuse
  /-- An implementation's own frame procedure, run once `RS.A9LL` and `DT` are there (41_readers.md R141, 42_a9ll_intra.md
  R145, R162). -/
  | impl (id : Nat)
  deriving DecidableEq, Repr

/-- `CFG` (10_state.md R21). -/
structure Config where
  /-- P1, `flagsA`/`flagsB`, legacy and modern. -/
  abLegacy : FlagsABLayout
  abModern : FlagsABLayout
  /-- P1, `flagsC`/`flagsD`, legacy and modern. -/
  cdLegacy : FlagsCDLayout
  cdModern : FlagsCDLayout
  /-- P2 `RAW_TYPES_OK` is the set of 0 and this value (40_header.md R103: two values, containing 0). -/
  rawType2 : Byte
  /-- P3 `W2_ENCODER_MODE`, as wide as the widest encoder-mode field of P1. -/
  w2Mode : Half
  /-- P4 `DELTA_CONST`, the two tables. -/
  delta0 : List Half
  delta1 : List Half
  /-- P5. -/
  deltaSelect : DeltaSelect
  /-- P6. -/
  a9Layout : A9Layout
  /-- P7. -/
  dirMap : DirMap
  /-- P8 `MASK_BIT`: the mask bit of tile position `p`. -/
  maskBit : List (Fin 16)
  /-- P9. -/
  qpGate : QpGate
  /-- P10. -/
  mvAxis : MvAxis
  /-- P11. -/
  interInit : InterInit
  /-- P12. -/
  firstFrame : FirstFrame
  /-- P13. -/
  w2Layout : W2Layout
  /-- P14; `none` is "no value": depth-2 frames are then refused (93_implementation_defined.md). -/
  d2 : Option D2Coding
  /-- P15. -/
  indexColor : IndexColor
  /-- P16 `MAX_PIXELS`. -/
  maxPixels : Nat
  /-- P17 `MAX_PACKET`. -/
  maxPacket : Nat
  /-- P18. -/
  endian : Endian
  /-- P19. -/
  intraPartial : IntraPartial
  deriving DecidableEq, Repr

/-! The uninterpreted functions that the `impl` variants name (log 2): nothing can be proved of their values. -/

/-- `P6.layout(P, header_size, data_end)` of implementation `id`. -/
opaque Config.a9LayoutFn (id : Nat) (packet : List Host.Cell) (len dataStart dataEnd : Nat) : A9Regions

/-- `P9.gate(HDR, P)` of implementation `id`; `HDR` is a function of the packet. -/
opaque Config.qpGateFn (id : Nat) (packet : List Host.Cell) (len : Nat) : Bool

/-- `P11.init(x, y)` of implementation `id`. -/
opaque Config.interInitFn (id x y : Nat) : Half

/-- `P12.first(HDR)` of implementation `id`; `HDR` is a function of the packet. -/
opaque Config.firstFrameFn (id : Nat) (packet : List Host.Cell) (len : Nat) : Bool

/-- P13's regions over a memory, from `base` to `stop`, of implementation `id`. -/
opaque Config.w2LayoutFn (id : Nat) (memory : List Host.Cell) (len base stop : Nat) : W2Regions

/-- P14's size and regions of implementation `id`. -/
opaque Config.d2LayoutFn (id : Nat) (packet : List Host.Cell) (len dataStart dataEnd : Nat) : D2Regions

/-- `P14.xor_base` of implementation `id`. -/
opaque Config.xorBaseFn (id : Nat) (ibuf : List Host.Cell) (ipos dist : Nat) : Half

/-- The frame that implementation `id` decodes from an intra packet of partial tiles (P19), or none: `INVALID_DATA`, the
one error of an intra frame (42_a9ll_intra.md R145).  `colourPlane` is the packet below `data_end`, which is all that a
colour-plane decoder reads (46_orchestrator.md R249); `dt` is the delta table of the frame (42_a9ll_intra.md R162). -/
opaque Config.partialIntraFn (id : Nat) (colourPlane : List Host.Cell) (dataEnd : Nat) (dt : List Half) (w h : Nat) :
  Option (Nat → Nat → Half)

/-- The pixel at `(x, y)` that implementation `id` makes of an index-colour frame (P15): `colourPlane` is the packet below
`data_end`, with the index-colour words in it, `colours` is `color_count`, and `frame` the decoded samples. -/
opaque Config.indexPixelFn (id : Nat) (colourPlane : List Host.Cell) (dataEnd : Nat) (colours : Word)
  (frame : List (Nat × Half)) (x y : Nat) : Half

/-! The free values (log 7): what `F`, `OUT` and the output buffer hold after a failed DECODE is "any value"
(93_implementation_defined.md).  `count` numbers the failures, so that no two of them need agree. -/

/-- The listed pixels of `F` after failure `count`. -/
opaque Config.freePixels (count : Nat) : List (Nat × Half)

/-- The listed bytes of the output buffer after failure `count`. -/
opaque Config.freeCells (count : Nat) : List Host.Cell

/-- Field `item` of `OUT` after failure `count`. -/
opaque Config.freeWord (count item : Nat) : Word

/-- TC0's P1 fields of `flagsA`/`flagsB`; `mode` is the encoder-mode field of the layout. -/
def FlagsABLayout.tc0 (mode : FlagField) : FlagsABLayout :=
  { transparency := 0, animated := 1, extraException := 2, dynamicTable := 3, encoderMode := mode, depth := [13, 12] }

/-- TC0's P1 fields of `flagsC`. -/
def FlagsCDLayout.tc0 : FlagsCDLayout :=
  { indexColor := 0, ninePatch := 1, gray := 2, premultiplied := 3, isOpaque := 4, notAlphaComposited := 5 }

/-- The test configuration TC0 (92_eei_decisions.md, table Parameters).  Not a claim about real Qmage files. -/
def Config.tc0 : Config :=
  { abLegacy := FlagsABLayout.tc0 [11, 10, 9, 8]
    abModern := FlagsABLayout.tc0 [10, 9, 8]
    cdLegacy := FlagsCDLayout.tc0
    cdModern := FlagsCDLayout.tc0
    rawType2 := 2
    w2Mode := 1
    delta0 := List.replicate 511 0
    delta1 := List.replicate 511 0
    deltaSelect := .above 0x0B
    a9Layout := .tc0
    dirMap := { mode0 := .up, mode1 := .left, mode2 := .upLeft }
    maskBit := [0, 1, 2, 3, 4, 5, 6, 7, 8, 9, 10, 11, 12, 13, 14, 15]
    qpGate := .fields [31, 30, 29, 28, 27, 26, 25, 24] []
    mvAxis := .aIsX
    interInit := .const 0
    firstFrame := .currentIsZero
    w2Layout := { regions := .header 0 false, runFrom := .idx }
    d2 := none
    indexColor := .refuse
    maxPixels := 2 ^ 24
    maxPacket := 2 ^ 24
    endian := .little
    intraPartial := .refuse }

/-- A value for P14 of the MODEL's own, so that depth-2 symbols can be tried out (log 2).  TC0 has none. -/
def D2Coding.sample : D2Coding :=
  { layout := .consecutive
    dist0 := 1
    kind1 := List.replicate 6 (.node (.leaf .lit) (.node (.leaf .backref) (.leaf .xor)))
    selector := .node (.leaf (some .verb)) (.node (.leaf (some .back)) (.node (.leaf (some .strip2)) (.leaf none)))
    kind2 := List.replicate 8 (.leaf .lit, .node (.leaf .backref) (.leaf .xor))
    maskBit := [0, 1, 2, 3, 4, 5, 6, 7]
    maskInBits := false
    distIfClear := .keep
    distIfSet := .byte
    xtab := [0x0000, 0x00FF, 0xFF00, 0xFFFF]
    xorBase := .atDistance
    litCur := .p0
    distCur := .p1
    keyCur := .p2
    maskCur := .p3 }

/-- What the spec requires of the parameters' values: P2 is a set of two values that contains 0 and not 1 (R103), P4 is
two tables of 511 entries, P7 is one-to-one (R165), P8 gives every position a bit, P17 is at most 2^32 (R212); and no
field of P1 is wider than the two bytes it is taken from (R104). -/
def Config.wf (c : Config) : Bool :=
  [c.abLegacy, c.abModern].all (fun l => decide (l.encoderMode.length ≤ 16) && decide (l.depth.length ≤ 16)) &&
  c.rawType2 != 0 && c.rawType2 != 1 && c.delta0.length == 511 && c.delta1.length == 511 &&
  c.dirMap.mode0 != c.dirMap.mode1 && c.dirMap.mode0 != c.dirMap.mode2 && c.dirMap.mode1 != c.dirMap.mode2 &&
  c.maskBit.length == 16 && decide (c.maxPacket ≤ 2 ^ 32)

end Sys2Proof
end

