-- ==== Sys2Proof/Syntax.lean ====
section
/-! DEFINITION. The instructions of QMDEC: one constructor for each row of spec/opcode_table.json (30_encoding.md
R70-R85, R89).  An operand is a field that the row's symbol reads; what a row only tests (a header condition, a mask
bit, the place in the sequence) is no operand. -/

namespace Sys2Proof

/-- The payload of a `D2.VALUE` symbol after its kind code (45_w2_depth2.md R223). -/
inductive D2Payload where
  | backref
  | xor (key : Byte)
  | lit (v : Half)
  deriving DecidableEq, Repr

/-- What a `D2.DIST` symbol reads after its flag bit (45_w2_depth2.md R224). -/
inductive DistUpdate where
  | keep
  | byte (d : Byte)
  | half (d : Half)
  deriving DecidableEq, Repr

/-- The symbols, header steps, dispatch branches and host commands of QMDEC. -/
inductive Instr where
  /-- `HDR.LEN` (R100). -/
  | hdrLen
  /-- `HDR.MAGIC` (R101). -/
  | hdrMagic
  /-- `HDR.VERSION` (R102): `P[2]`. -/
  | hdrVersion (version : Byte)
  /-- `HDR.RAWTYPE` (R103): `P[3]`. -/
  | hdrRawType (rawType : Byte)
  /-- `HDR.FLAGS_AB` (R104): `P[4]`, `P[5]`. -/
  | hdrFlagsAB (a b : Byte)
  /-- `HDR.DIMS` (R105): `P[6..7]`, `P[8..9]`. -/
  | hdrDims (w h : Half)
  /-- `HDR.FLAGS_CD` (R106): `P[10]`, `P[11]`. -/
  | hdrFlagsCD (c d : Byte)
  /-- `HDR.ALPHA_PRESENT` (R107). -/
  | hdrAlphaPresent
  /-- `HDR.ALPHA_LEGACY` (R108): `P[12..15]`. -/
  | hdrAlphaLegacy (raw : Word)
  /-- `HDR.ALPHA_MODERN` (R109): `P[12..13]`, `P[14]`, the pad `P[15]`. -/
  | hdrAlphaModern (raw : Half) (mode pad : Byte)
  /-- `HDR.ANIM` (R110): `P[16..22]` and the pad `P[23]`. -/
  | hdrAnim (total current delay : Half) (noRepeat pad : Byte)
  /-- `HDR.INDEX` (R111): the nine-patch word where present, and the colour count. -/
  | hdrIndex (pad : Option Word) (colorCount : Word)
  /-- `HDR.SIZE` (R112). -/
  | hdrSize
  /-- `HDR.XVAL` (R114). -/
  | hdrXval
  /-- `HDR.DATAEND` (R115). -/
  | hdrDataEnd
  /-- `HDR.QPGATE` (R116). -/
  | hdrQpGate
  /-- `HDR.FIRST` (R117). -/
  | hdrFirst
  /-- `TILE2.DIR0` (R146, R150): mode `00` and the mask. -/
  | tile2Dir0 (mask : Half)
  /-- `TILE2.DIR1` (R146, R151): mode `01` and the mask. -/
  | tile2Dir1 (mask : Half)
  /-- `TILE2.DIR2` (R146, R152): mode `10` and the mask. -/
  | tile2Dir2 (mask : Half)
  /-- `TILE2.EDGE` (R146, R153): mode `11`. -/
  | tile2Edge
  /-- `PIX.COPY` (R154): the mask bit is set, nothing is read. -/
  | pixCopy
  /-- `PIX.RES0` (R156): class 0 and a 1-bit index. -/
  | pixRes0 (i : BitVec 1)
  /-- `PIX.RES1` (R156): class 1 and a 2-bit index. -/
  | pixRes1 (i : BitVec 2)
  /-- `PIX.RES2` (R156): class 2 and a 3-bit index. -/
  | pixRes2 (i : BitVec 3)
  /-- `PIX.RES3` (R156): class 3 and a 4-bit index. -/
  | pixRes3 (i : BitVec 4)
  /-- `PIX.RES4` (R156): class 4 and a 5-bit index. -/
  | pixRes4 (i : BitVec 5)
  /-- `PIX.RES5` (R156): class 5 and a 6-bit index. -/
  | pixRes5 (i : BitVec 6)
  /-- `PIX.RES6` (R156): class 6 and a 7-bit index. -/
  | pixRes6 (i : BitVec 7)
  /-- `PIX.LIT` (R157): class 7 and a literal. -/
  | pixLit (lit : Half)
  /-- `DTAB` (R161): 512 sign bytes, then 512 magnitudes. -/
  | dtab (signs : List Byte) (mags : List Half)
  /-- `DT.CONST` (R160). -/
  | dtConst
  /-- `MB.REFCOPY` (R172): bits `11`. -/
  | mbRefCopy
  /-- `MB.MVZERO` (R173): bits `101`. -/
  | mbMvZero
  /-- `MB.MV` (R174): bits `100`, then `a` and `b`. -/
  | mbMv (a : BitVec 8) (b : BitVec 7)
  /-- `MB.MCCOPY` (R175): after a vector, bit `1`. -/
  | mbMcCopy
  /-- `MB.MCSUB` (R176): after a vector, bit `0`. -/
  | mbMcSub
  /-- `MB.SUB2` (R177): bit `0`. -/
  | mbSub2
  /-- `GATE` (R178): before a sub-block sequence, nothing is read. -/
  | gate
  /-- `S3.DIR0` (R179): mode `000` and the mask. -/
  | s3Dir0 (mask : Half)
  /-- `S3.DIR1` (R179): mode `001` and the mask. -/
  | s3Dir1 (mask : Half)
  /-- `S3.DIR2` (R179): mode `010` and the mask. -/
  | s3Dir2 (mask : Half)
  /-- `S3.EDGE` (R180): mode `011`. -/
  | s3Edge
  /-- `S3.RESREF` (R181): mode `100` and the mask. -/
  | s3ResRef (mask : Half)
  /-- `S3.COPYREF` (R182): mode `101`. -/
  | s3CopyRef
  /-- `S3.RESMV` (R183): mode `110` and the mask. -/
  | s3ResMv (mask : Half)
  /-- `S3.COPYMV` (R184): mode `111`. -/
  | s3CopyMv
  /-- `S2.DIR0` (R185): mode `00` and the mask. -/
  | s2Dir0 (mask : Half)
  /-- `S2.DIR1` (R185): mode `01` and the mask. -/
  | s2Dir1 (mask : Half)
  /-- `S2.DIR2` (R185): mode `10` and the mask. -/
  | s2Dir2 (mask : Half)
  /-- `S2.EDGE` (R185): mode `11`. -/
  | s2Edge
  /-- `EMB.SKIP1` (R186): skip bit `1`. -/
  | embSkip1
  /-- `EMB.CELLS` (R186, R187): skip bit `0`. -/
  | embCells
  /-- `EMB.LITCELL` (R188): one literal for each visible pixel of the cell, in raster order. -/
  | embLitCell (lits : List Half)
  /-- `VALUE` (R202): the continuation value of an index of the depth-1 stream. -/
  | value (v : Nat)
  /-- `W2.LIT` (R204): the index read was 0; a literal pair. -/
  | w2Lit (pair : Word)
  /-- `W2.RUN` (R205): the index `idx >= 1` that was read, and the run length. -/
  | w2Run (idx run : Nat)
  /-- `D2.STRIP1` (R222): the 32-bit literal that opens the first strip. -/
  | d2Strip1 (q : Word)
  /-- `D2.VALUE` (R223): the kind code's bits and the payload. -/
  | d2Value (code : List Bool) (payload : D2Payload)
  /-- `D2.DIST` (R224): the flag bit and what it selects. -/
  | d2Dist (flag : Bool) (update : DistUpdate)
  /-- `D2.STRIPSEL` (R226): the selector code's bits and the strip kind they select. -/
  | d2StripSel (code : List Bool) (kind : StripKind)
  /-- `D2.VERB` (R227): 16 literal bytes. -/
  | d2Verb (bytes : List Byte)
  /-- `D2.BACK` (R228): no payload. -/
  | d2Back
  /-- `D2.STRIP2` (R229): the presence mask, eight bits of `D2B` (`fromBits`) or a byte of the mask cursor, as P14 says. -/
  | d2Strip2 (fromBits : Bool) (mask : Byte)
  /-- `D2.TAIL` (R231): the fewer than 16 remaining bytes. -/
  | d2Tail (bytes : List Byte)
  /-- `DISPATCH.INTRA` (R248). -/
  | dispatchIntra
  /-- `DISPATCH.INTER` (R250). -/
  | dispatchInter
  /-- `DISPATCH.W2D1` (R253). -/
  | dispatchW2D1
  /-- `DISPATCH.W2D2` (R253). -/
  | dispatchW2D2
  /-- `DISPATCH.EXTRA` (R247). -/
  | dispatchExtra
  /-- `DISPATCH.MODE` (R252). -/
  | dispatchMode
  /-- `DECODE` (R241): the packet (its length is `L`), the row stride, and the size in bytes of the output buffer that the
  host provides with it (R287). -/
  | decode (packet : List Byte) (stride cap : Nat)
  /-- `RESET` (R285). -/
  | reset
  deriving DecidableEq, Repr

/-- A command of the host, as it waits to be issued (R241, R285). -/
inductive HostCmd where
  | decode (packet : List Byte) (stride cap : Nat)
  | reset
  deriving DecidableEq, Repr

/-- The bit cursors (10_state.md R28). -/
inductive BitCur where
  | bit1 | bit2 | d2b
  deriving DecidableEq, Repr

/-- The byte sources a symbol's fields are read from: the byte fields of the packet header (R71), and the logical byte
cursors (10_state.md R29; `run` is the one P13 reads run lengths from, `d2l` to `d2mask` are P14's). -/
inductive ByteCur where
  | header | maskc | litc | tabc | edgelit | idx | lit | run | d2l | d2dist | d2key | d2mask
  deriving DecidableEq, Repr

end Sys2Proof
end

