-- ==== Sys2Proof/WellFormed.lean ====
section
/-! DEFINITION. Which operand values the encodings of 30_encoding.md admit: the checks that a `BitVec` width does not
already make. -/

namespace Sys2Proof

/-- The bits `code` spell exactly one symbol of the prefix code, and that symbol is `a`. -/
def PrefixCode.spells {α : Type} [DecidableEq α] : PrefixCode α → List Bool → α → Bool
  | .leaf b, [], a => decide (b = a)
  | .node z o, bit :: rest, a => if bit then o.spells rest a else z.spells rest a
  | _, _, _ => false

/-- Operands that the symbol's own encoding admits, whatever the place in the bitstream: 512 pairs of a dynamic table
(R77), 1 to 15 literals of a partly visible cell (R188), a run's index at least 1 (R84), 16 bytes of a verbatim strip
(R227), 1 to 15 bytes of a tail (R231). -/
def Instr.wf : Instr → Bool
  | .dtab signs mags => signs.length == 512 && mags.length == 512
  | .embLitCell lits => decide (1 ≤ lits.length) && decide (lits.length ≤ 15)
  | .w2Run idx _ => decide (1 ≤ idx)
  | .d2Verb bytes => bytes.length == 16
  | .d2Tail bytes => decide (1 ≤ bytes.length) && decide (bytes.length ≤ 15)
  | _ => true

end Sys2Proof
end

