-- ==== Sys2Proof/Decode.lean ====
section
/-! DEFINITION. The decoder and the encoder (30_encoding.md).  QMDEC has no instruction words: a symbol is a short
sequence of reads from several cursors (R70), and which format is read next is known from what was read before (R88).
So the decoder takes a `Format` (what the sequencer expects) and `Streams` (what each cursor has left), and the encoder
gives the list of reads.  Both are written from the tables of 30_encoding.md. -/

namespace Sys2Proof

/-- The steps of the header front end in the order of 40_header.md R118.  `alpha` is R108 or the read part of R109,
`scale` the scaling part of R109. -/
inductive HdrStep where
  | len | magic | version | rawType | flagsAB | dims | flagsCD | alphaPresent | alpha | anim | first | scale | size
  | index | xval | dataEnd | qpGate
  deriving DecidableEq, Repr, Inhabited

/-- The format the next symbol has: the left column of 30_encoding.md's tables, with what the block has read already
and the encoding depends on (R88). -/
inductive Format where
  /-- A header step (R71); `legacy` and `ninePatch` choose the layout of its fields. -/
  | hdr (k : HdrStep) (legacy ninePatch : Bool)
  /-- A dispatch branch (46_orchestrator.md R259): the header fields that choose it. -/
  | dispatch (extra animated first modeOk : Bool) (depth : Half)
  /-- `DTAB` or `DT.CONST` (R77). -/
  | table (dynamic : Bool)
  | tile2
  | pixel (maskBit : Bool)
  | mb16
  | mbEdge
  | mvCopy
  | gate
  | sub3
  | sub2
  /-- A partly visible cell with `count` visible pixels (R82). -/
  | litCell (count : Nat)
  | value
  /-- What follows the index value `idx` (R84). -/
  | w2Sym (idx : Nat)
  | d2Strip1
  | d2Value (code : PrefixCode ValueKind)
  | d2Dist (ifClear ifSet : DistOp)
  | d2StripSel (code : PrefixCode (Option StripKind))
  | d2Body (kind : StripKind) (maskInBits : Bool)
  /-- The tail of `count` bytes (R231). -/
  | d2Tail (count : Nat)
  /-- A host command (46_orchestrator.md R241, 70_reset_and_hazards.md R285). -/
  | command
  deriving DecidableEq, Repr

/-- What each cursor has left, in reading order: bits most significant first (R54), bytes in address order.  `header`
is the packet from the header step's first field on. -/
structure Streams where
  bit1 : List Bool := []
  bit2 : List Bool := []
  d2b : List Bool := []
  header : List Byte := []
  maskc : List Byte := []
  litc : List Byte := []
  tabc : List Byte := []
  edgelit : List Byte := []
  idx : List Byte := []
  lit : List Byte := []
  run : List Byte := []
  d2l : List Byte := []
  d2dist : List Byte := []
  d2key : List Byte := []
  d2mask : List Byte := []
  cmd : Option HostCmd := none
  deriving DecidableEq, Repr

/-- Why the bits under the cursors are no instruction. -/
inductive Reject where
  /-- A cursor, or the packet header, ends inside the symbol (41_readers.md R131, R134, 40_header.md R113): the hardware
  answers `INVALID_DATA`. -/
  | overrun
  /-- `P[0..1]` is not the magic (40_header.md R101): the hardware answers `INVALID_DATA`. -/
  | badMagic
  /-- A depth outside 1 and 2 (46_orchestrator.md R253): the hardware answers `UNSUPPORTED`. -/
  | badDepth
  /-- A selector code that P14 assigns to no strip kind (45_w2_depth2.md R226): the hardware answers `INVALID_DATA`. -/
  | badSelector
  /-- No host command waits. -/
  | noCommand
  deriving DecidableEq, Repr

/-- The status a rejected symbol ends the DECODE with. -/
def Reject.err : Reject → Err
  | .badDepth => .unsupported
  | _ => .invalidData

/-! ## Byte order and bit order -/

/-- A little-endian u16 (20_memory.md R52). -/
def le16 (b0 b1 : Byte) : Half := b1 ++ b0

/-- A little-endian u32 (20_memory.md R52). -/
def le32 (b0 b1 b2 b3 : Byte) : Word := b3 ++ b2 ++ b1 ++ b0

/-- The two bytes of a u16, lowest address first. -/
def bytes16 (v : Half) : List Byte := [v.extractLsb' 0 8, v.extractLsb' 8 8]

/-- The four bytes of a u32, lowest address first. -/
def bytes32 (v : Word) : List Byte :=
  [v.extractLsb' 0 8, v.extractLsb' 8 8, v.extractLsb' 16 8, v.extractLsb' 24 8]

/-- The bits of a field, most significant first (41_readers.md R130): bit `n - 1` down to bit 0 of `v`. -/
def msbBits : (n : Nat) → (v : Nat) → List Bool
  | 0, _ => []
  | n + 1, v => v.testBit n :: msbBits n v

/-- One more bit at the low end of the value read so far: `v <- 2*v + bit` (41_readers.md R130). -/
def shiftIn (v : Nat) (b : Bool) : Nat := 2 * v + b.toNat

/-- The unsigned value of bits read in order, the first the most significant (41_readers.md R130). -/
def valueOfBits (bits : List Bool) : Nat := bits.foldl shiftIn 0

/-! ## Reads from a stream -/

/-- `n` bits as an unsigned value, and the bits after them (41_readers.md R130, R131). -/
def takeBits (n : Nat) (bits : List Bool) : Except Reject (Nat × List Bool) :=
  if n ≤ bits.length then .ok (valueOfBits (bits.take n), bits.drop n) else .error .overrun

/-- `n` bytes, and the bytes after them (41_readers.md R138). -/
def takeBytes (n : Nat) (bytes : List Byte) : Except Reject (List Byte × List Byte) :=
  if n ≤ bytes.length then .ok (bytes.take n, bytes.drop n) else .error .overrun

/-- A u8 (41_readers.md R135). -/
def takeU8 : List Byte → Except Reject (Byte × List Byte)
  | b :: rest => .ok (b, rest)
  | _ => .error .overrun

/-- A u16 (41_readers.md R136). -/
def takeU16 : List Byte → Except Reject (Half × List Byte)
  | b0 :: b1 :: rest => .ok (le16 b0 b1, rest)
  | _ => .error .overrun

/-- A u32 (41_readers.md R137). -/
def takeU32 : List Byte → Except Reject (Word × List Byte)
  | b0 :: b1 :: b2 :: b3 :: rest => .ok (le32 b0 b1 b2 b3, rest)
  | _ => .error .overrun

/-- `n` values of 16 bits. -/
def takeU16s : Nat → List Byte → Except Reject (List Half × List Byte)
  | 0, bytes => .ok ([], bytes)
  | n + 1, bytes => do
    let (v, rest) ← takeU16 bytes
    let (vs, rest) ← takeU16s n rest
    .ok (v :: vs, rest)

/-- A continuation value (R83): each byte `0xFF` adds 255, the first other byte ends it. -/
def takeValue : List Byte → Except Reject (Nat × List Byte)
  | [] => .error .overrun
  | b :: rest =>
    if b = 0xFF then do
      let (v, rest) ← takeValue rest
      .ok (v + 255, rest)
    else .ok (b.toNat, rest)

/-- The bytes of a continuation value (R83). -/
def valueBytes (v : Nat) : List Byte := List.replicate (v / 255) 0xFF ++ [BitVec.ofNat 8 (v % 255)]

/-- A symbol of a prefix code: the bits it took, and what it stands for. -/
def takeCode {α : Type} : PrefixCode α → List Bool → Except Reject (List Bool × α × List Bool)
  | .leaf a, bits => .ok ([], a, bits)
  | .node _ _, [] => .error .overrun
  | .node zero one, b :: bits => do
    let (code, a, rest) ← takeCode (if b then one else zero) bits
    .ok (b :: code, a, rest)

/-! ## The decoder -/

/-- The header steps (R71, 40_header.md R100-R117). -/
def decodeHeader (k : HdrStep) (legacy ninePatch : Bool) (bytes : List Byte) : Except Reject Instr :=
  match k with
  | .len => .ok .hdrLen
  | .magic => do
    let (b0, rest) ← takeU8 bytes
    let (b1, _) ← takeU8 rest
    if b0 = 0x51 ∧ b1 = 0x4D then .ok .hdrMagic else .error .badMagic
  | .version => do
    let (v, _) ← takeU8 bytes
    .ok (.hdrVersion v)
  | .rawType => do
    let (t, _) ← takeU8 bytes
    .ok (.hdrRawType t)
  | .flagsAB => do
    let (a, rest) ← takeU8 bytes
    let (b, _) ← takeU8 rest
    .ok (.hdrFlagsAB a b)
  | .dims => do
    let (w, rest) ← takeU16 bytes
    let (h, _) ← takeU16 rest
    .ok (.hdrDims w h)
  | .flagsCD => do
    let (c, rest) ← takeU8 bytes
    let (d, _) ← takeU8 rest
    .ok (.hdrFlagsCD c d)
  | .alphaPresent => .ok .hdrAlphaPresent
  | .alpha =>
    if legacy then do
      let (raw, _) ← takeU32 bytes
      .ok (.hdrAlphaLegacy raw)
    else decodeAlphaModern bytes
  | .anim => do
    let (total, rest) ← takeU16 bytes
    let (current, rest) ← takeU16 rest
    let (delay, rest) ← takeU16 rest
    let (noRepeat, rest) ← takeU8 rest
    let (pad, _) ← takeU8 rest
    .ok (.hdrAnim total current delay noRepeat pad)
  | .first => .ok .hdrFirst
  | .scale => decodeAlphaModern bytes
  | .size => .ok .hdrSize
  | .index =>
    if ninePatch then do
      let (pad, rest) ← takeU32 bytes
      let (count, _) ← takeU32 rest
      .ok (.hdrIndex (some pad) count)
    else do
      let (count, _) ← takeU32 bytes
      .ok (.hdrIndex none count)
  | .xval => .ok .hdrXval
  | .dataEnd => .ok .hdrDataEnd
  | .qpGate => .ok .hdrQpGate
where
  /-- The modern alpha field: u16, u8, pad. -/
  decodeAlphaModern (bytes : List Byte) : Except Reject Instr := do
    let (raw, rest) ← takeU16 bytes
    let (mode, rest) ← takeU8 rest
    let (pad, _) ← takeU8 rest
    .ok (.hdrAlphaModern raw mode pad)

/-- `DISPATCH.*` (46_orchestrator.md R259, from `extra_exception` on). -/
def decodeDispatch (extra animated first modeOk : Bool) (depth : Half) : Except Reject Instr :=
  if extra then .ok .dispatchExtra
  else if animated then if first then .ok .dispatchIntra else .ok .dispatchInter
  else if !modeOk then .ok .dispatchMode
  else if depth = 1 then .ok .dispatchW2D1
  else if depth = 2 then .ok .dispatchW2D2
  else .error .badDepth

/-- `DTAB`, or `DT.CONST` which reads nothing (R77). -/
def decodeTable (dynamic : Bool) (st : Streams) : Except Reject Instr :=
  if dynamic then do
    let (signs, rest) ← takeBytes 512 st.tabc
    let (mags, _) ← takeU16s 512 rest
    .ok (.dtab signs mags)
  else .ok .dtConst

/-- A mode that is followed by a mask from `MASKC`. -/
def withMask (st : Streams) (mk : Half → Instr) : Except Reject Instr := do
  let (mask, _) ← takeU16 st.maskc
  .ok (mk mask)

/-- `TILE2` (R75). -/
def decodeTile2 (st : Streams) : Except Reject Instr := do
  let (m, _) ← takeBits 2 st.bit1
  match m with
  | 0 => withMask st .tile2Dir0
  | 1 => withMask st .tile2Dir1
  | 2 => withMask st .tile2Dir2
  | _ => .ok .tile2Edge

/-- `SUB2` (R81). -/
def decodeSub2 (st : Streams) : Except Reject Instr := do
  let (m, _) ← takeBits 2 st.bit1
  match m with
  | 0 => withMask st .s2Dir0
  | 1 => withMask st .s2Dir1
  | 2 => withMask st .s2Dir2
  | _ => .ok .s2Edge

/-- `SUB3` (R80). -/
def decodeSub3 (st : Streams) : Except Reject Instr := do
  let (m, _) ← takeBits 3 st.bit1
  match m with
  | 0 => withMask st .s3Dir0
  | 1 => withMask st .s3Dir1
  | 2 => withMask st .s3Dir2
  | 3 => .ok .s3Edge
  | 4 => withMask st .s3ResRef
  | 5 => .ok .s3CopyRef
  | 6 => withMask st .s3ResMv
  | _ => .ok .s3CopyMv

/-- The pixel symbol (R76). -/
def decodePixel (maskBit : Bool) (st : Streams) : Except Reject Instr :=
  if maskBit then .ok .pixCopy
  else do
    let (c, _) ← takeBits 3 st.bit2
    if c = 7 then do
      let (lit, _) ← takeU16 st.litc
      .ok (.pixLit lit)
    else do
      let (i, _) ← takeBits (c + 1) st.bit1
      match c with
      | 0 => .ok (.pixRes0 (BitVec.ofNat 1 i))
      | 1 => .ok (.pixRes1 (BitVec.ofNat 2 i))
      | 2 => .ok (.pixRes2 (BitVec.ofNat 3 i))
      | 3 => .ok (.pixRes3 (BitVec.ofNat 4 i))
      | 4 => .ok (.pixRes4 (BitVec.ofNat 5 i))
      | 5 => .ok (.pixRes5 (BitVec.ofNat 6 i))
      | _ => .ok (.pixRes6 (BitVec.ofNat 7 i))

/-- `MB16` up to the vector (R78, R79). -/
def decodeMb16 (st : Streams) : Except Reject Instr := do
  let (b, rest) ← takeBits 1 st.bit1
  if b = 0 then .ok .mbSub2
  else do
    let (b2, rest) ← takeBits 1 rest
    if b2 = 1 then .ok .mbRefCopy
    else do
      let (z, rest) ← takeBits 1 rest
      if z = 1 then .ok .mbMvZero
      else do
        let (a, rest) ← takeBits 8 rest
        let (b, _) ← takeBits 7 rest
        .ok (.mbMv (BitVec.ofNat 8 a) (BitVec.ofNat 7 b))

/-- The depth-2 value (R85, 45_w2_depth2.md R223). -/
def decodeD2Value (code : PrefixCode ValueKind) (st : Streams) : Except Reject Instr := do
  let (bits, kind, _) ← takeCode code st.d2b
  match kind with
  | .backref => .ok (.d2Value bits .backref)
  | .xor => do
    let (key, _) ← takeU8 st.d2key
    .ok (.d2Value bits (.xor key))
  | .lit => do
    let (v, _) ← takeU16 st.d2l
    .ok (.d2Value bits (.lit v))

/-- The depth-2 distance update (R85, 45_w2_depth2.md R224). -/
def decodeD2Dist (ifClear ifSet : DistOp) (st : Streams) : Except Reject Instr := do
  let (f, _) ← takeBits 1 st.d2b
  let flag := f == 1
  match if flag then ifSet else ifClear with
  | .keep => .ok (.d2Dist flag .keep)
  | .byte => do
    let (d, _) ← takeU8 st.d2dist
    .ok (.d2Dist flag (.byte d))
  | .half => do
    let (d, _) ← takeU16 st.d2dist
    .ok (.d2Dist flag (.half d))

/-- The body of a later strip (R85). -/
def decodeD2Body (kind : StripKind) (maskInBits : Bool) (st : Streams) : Except Reject Instr :=
  match kind with
  | .verb => do
    let (bytes, _) ← takeBytes 16 st.d2l
    .ok (.d2Verb bytes)
  | .back => .ok .d2Back
  | .strip2 =>
    if maskInBits then do
      let (m, _) ← takeBits 8 st.d2b
      .ok (.d2Strip2 true (BitVec.ofNat 8 m))
    else do
      let (m, _) ← takeU8 st.d2mask
      .ok (.d2Strip2 false m)

/-- The decoder: total on any streams; what it refuses it refuses by name. -/
def decode (f : Format) (st : Streams) : Except Reject Instr :=
  match f with
  | .hdr k legacy ninePatch => decodeHeader k legacy ninePatch st.header
  | .dispatch extra animated first modeOk depth => decodeDispatch extra animated first modeOk depth
  | .table dynamic => decodeTable dynamic st
  | .tile2 => decodeTile2 st
  | .pixel maskBit => decodePixel maskBit st
  | .mb16 => decodeMb16 st
  | .mbEdge => do
    let (s, _) ← takeBits 1 st.bit1
    if s = 1 then .ok .embSkip1 else .ok .embCells
  | .mvCopy => do
    let (k, _) ← takeBits 1 st.bit1
    if k = 1 then .ok .mbMcCopy else .ok .mbMcSub
  | .gate => .ok .gate
  | .sub3 => decodeSub3 st
  | .sub2 => decodeSub2 st
  | .litCell count => do
    let (lits, _) ← takeU16s count st.edgelit
    .ok (.embLitCell lits)
  | .value => do
    let (v, _) ← takeValue st.idx
    .ok (.value v)
  | .w2Sym idx =>
    if idx = 0 then do
      let (q, _) ← takeU32 st.lit
      .ok (.w2Lit q)
    else do
      let (run, _) ← takeValue st.run
      .ok (.w2Run idx run)
  | .d2Strip1 => do
    let (q, _) ← takeU32 st.d2l
    .ok (.d2Strip1 q)
  | .d2Value code => decodeD2Value code st
  | .d2Dist ifClear ifSet => decodeD2Dist ifClear ifSet st
  | .d2StripSel code => do
    let (bits, kind, _) ← takeCode code st.d2b
    match kind with
    | some k => .ok (.d2StripSel bits k)
    | none => .error .badSelector
  | .d2Body kind maskInBits => decodeD2Body kind maskInBits st
  | .d2Tail count => do
    let (bytes, _) ← takeBytes count st.d2l
    .ok (.d2Tail bytes)
  | .command =>
    match st.cmd with
    | some (.decode packet stride cap) => .ok (.decode packet stride cap)
    | some .reset => .ok .reset
    | none => .error .noCommand

/-! ## The encoder -/

/-- One read of a symbol (R70): bits of a bit cursor, bytes of a byte source, or a host command. -/
inductive Read where
  | bits (c : BitCur) (bs : List Bool)
  | bytes (c : ByteCur) (bs : List Byte)
  | command (c : HostCmd)
  deriving DecidableEq, Repr

/-- A mode on `BIT1` followed by a mask on `MASKC`. -/
def modeMask (mode : List Bool) (mask : Half) : List Read := [.bits .bit1 mode, .bytes .maskc (bytes16 mask)]

/-- A residual of class `c`: three bits of `BIT2`, `c + 1` bits of `BIT1` (R76). -/
def residualReads (c i : Nat) : List Read := [.bits .bit2 (msbBits 3 c), .bits .bit1 (msbBits (c + 1) i)]

/-- The bytes of a list of u16 values. -/
def bytesOfHalves (vs : List Half) : List Byte := vs.flatMap bytes16

/-- The encoder: the reads of an instruction's symbol, in the order they are made. -/
def encode : Instr → List Read
  | .hdrLen => []
  | .hdrMagic => [.bytes .header [0x51, 0x4D]]
  | .hdrVersion v => [.bytes .header [v]]
  | .hdrRawType t => [.bytes .header [t]]
  | .hdrFlagsAB a b => [.bytes .header [a, b]]
  | .hdrDims w h => [.bytes .header (bytes16 w ++ bytes16 h)]
  | .hdrFlagsCD c d => [.bytes .header [c, d]]
  | .hdrAlphaPresent => []
  | .hdrAlphaLegacy raw => [.bytes .header (bytes32 raw)]
  | .hdrAlphaModern raw mode pad => [.bytes .header (bytes16 raw ++ [mode, pad])]
  | .hdrAnim total current delay noRepeat pad =>
    [.bytes .header (bytes16 total ++ bytes16 current ++ bytes16 delay ++ [noRepeat, pad])]
  | .hdrIndex (some pad) count => [.bytes .header (bytes32 pad ++ bytes32 count)]
  | .hdrIndex none count => [.bytes .header (bytes32 count)]
  | .hdrSize => []
  | .hdrXval => []
  | .hdrDataEnd => []
  | .hdrQpGate => []
  | .hdrFirst => []
  | .tile2Dir0 mask => modeMask [false, false] mask
  | .tile2Dir1 mask => modeMask [false, true] mask
  | .tile2Dir2 mask => modeMask [true, false] mask
  | .tile2Edge => [.bits .bit1 [true, true]]
  | .pixCopy => []
  | .pixRes0 i => residualReads 0 i.toNat
  | .pixRes1 i => residualReads 1 i.toNat
  | .pixRes2 i => residualReads 2 i.toNat
  | .pixRes3 i => residualReads 3 i.toNat
  | .pixRes4 i => residualReads 4 i.toNat
  | .pixRes5 i => residualReads 5 i.toNat
  | .pixRes6 i => residualReads 6 i.toNat
  | .pixLit lit => [.bits .bit2 [true, true, true], .bytes .litc (bytes16 lit)]
  | .dtab signs mags => [.bytes .tabc signs, .bytes .tabc (bytesOfHalves mags)]
  | .dtConst => []
  | .mbRefCopy => [.bits .bit1 [true, true]]
  | .mbMvZero => [.bits .bit1 [true, false, true]]
  | .mbMv a b => [.bits .bit1 [true, false, false], .bits .bit1 (msbBits 8 a.toNat), .bits .bit1 (msbBits 7 b.toNat)]
  | .mbMcCopy => [.bits .bit1 [true]]
  | .mbMcSub => [.bits .bit1 [false]]
  | .mbSub2 => [.bits .bit1 [false]]
  | .gate => []
  | .s3Dir0 mask => modeMask [false, false, false] mask
  | .s3Dir1 mask => modeMask [false, false, true] mask
  | .s3Dir2 mask => modeMask [false, true, false] mask
  | .s3Edge => [.bits .bit1 [false, true, true]]
  | .s3ResRef mask => modeMask [true, false, false] mask
  | .s3CopyRef => [.bits .bit1 [true, false, true]]
  | .s3ResMv mask => modeMask [true, true, false] mask
  | .s3CopyMv => [.bits .bit1 [true, true, true]]
  | .s2Dir0 mask => modeMask [false, false] mask
  | .s2Dir1 mask => modeMask [false, true] mask
  | .s2Dir2 mask => modeMask [true, false] mask
  | .s2Edge => [.bits .bit1 [true, true]]
  | .embSkip1 => [.bits .bit1 [true]]
  | .embCells => [.bits .bit1 [false]]
  | .embLitCell lits => [.bytes .edgelit (bytesOfHalves lits)]
  | .value v => [.bytes .idx (valueBytes v)]
  | .w2Lit pair => [.bytes .lit (bytes32 pair)]
  | .w2Run _ run => [.bytes .run (valueBytes run)]
  | .d2Strip1 q => [.bytes .d2l (bytes32 q)]
  | .d2Value code .backref => [.bits .d2b code]
  | .d2Value code (.xor key) => [.bits .d2b code, .bytes .d2key [key]]
  | .d2Value code (.lit v) => [.bits .d2b code, .bytes .d2l (bytes16 v)]
  | .d2Dist flag .keep => [.bits .d2b [flag]]
  | .d2Dist flag (.byte d) => [.bits .d2b [flag], .bytes .d2dist [d]]
  | .d2Dist flag (.half d) => [.bits .d2b [flag], .bytes .d2dist (bytes16 d)]
  | .d2StripSel code _ => [.bits .d2b code]
  | .d2Verb bytes => [.bytes .d2l bytes]
  | .d2Back => []
  | .d2Strip2 true mask => [.bits .d2b (msbBits 8 mask.toNat)]
  | .d2Strip2 false mask => [.bytes .d2mask [mask]]
  | .d2Tail bytes => [.bytes .d2l bytes]
  | .dispatchIntra => []
  | .dispatchInter => []
  | .dispatchW2D1 => []
  | .dispatchW2D2 => []
  | .dispatchExtra => []
  | .dispatchMode => []
  | .decode packet stride cap => [.command (.decode packet stride cap)]
  | .reset => [.command .reset]

/-- Put one read in front of the streams. -/
def Read.lay : Read → Streams → Streams
  | .bits .bit1 bs, st => { st with bit1 := bs ++ st.bit1 }
  | .bits .bit2 bs, st => { st with bit2 := bs ++ st.bit2 }
  | .bits .d2b bs, st => { st with d2b := bs ++ st.d2b }
  | .bytes .header bs, st => { st with header := bs ++ st.header }
  | .bytes .maskc bs, st => { st with maskc := bs ++ st.maskc }
  | .bytes .litc bs, st => { st with litc := bs ++ st.litc }
  | .bytes .tabc bs, st => { st with tabc := bs ++ st.tabc }
  | .bytes .edgelit bs, st => { st with edgelit := bs ++ st.edgelit }
  | .bytes .idx bs, st => { st with idx := bs ++ st.idx }
  | .bytes .lit bs, st => { st with lit := bs ++ st.lit }
  | .bytes .run bs, st => { st with run := bs ++ st.run }
  | .bytes .d2l bs, st => { st with d2l := bs ++ st.d2l }
  | .bytes .d2dist bs, st => { st with d2dist := bs ++ st.d2dist }
  | .bytes .d2key bs, st => { st with d2key := bs ++ st.d2key }
  | .bytes .d2mask bs, st => { st with d2mask := bs ++ st.d2mask }
  | .command c, st => { st with cmd := some c }

/-- The streams on which a symbol with these reads stands, with `rest` after it. -/
def layReads (reads : List Read) (rest : Streams) : Streams := reads.foldr Read.lay rest

/-- `i` is a well-formed instruction of format `f`: the row of 30_encoding.md's tables that it belongs to. -/
def Format.admits (f : Format) (i : Instr) : Bool :=
  match f, i with
  | .hdr .len _ _, .hdrLen => true
  | .hdr .magic _ _, .hdrMagic => true
  | .hdr .version _ _, .hdrVersion _ => true
  | .hdr .rawType _ _, .hdrRawType _ => true
  | .hdr .flagsAB _ _, .hdrFlagsAB _ _ => true
  | .hdr .dims _ _, .hdrDims _ _ => true
  | .hdr .flagsCD _ _, .hdrFlagsCD _ _ => true
  | .hdr .alphaPresent _ _, .hdrAlphaPresent => true
  | .hdr .alpha true _, .hdrAlphaLegacy _ => true
  | .hdr .alpha false _, .hdrAlphaModern _ _ _ => true
  | .hdr .anim _ _, .hdrAnim _ _ _ _ _ => true
  | .hdr .first _ _, .hdrFirst => true
  | .hdr .scale _ _, .hdrAlphaModern _ _ _ => true
  | .hdr .size _ _, .hdrSize => true
  | .hdr .index _ ninePatch, .hdrIndex pad _ => pad.isSome == ninePatch
  | .hdr .xval _ _, .hdrXval => true
  | .hdr .dataEnd _ _, .hdrDataEnd => true
  | .hdr .qpGate _ _, .hdrQpGate => true
  | .dispatch true _ _ _ _, .dispatchExtra => true
  | .dispatch false true true _ _, .dispatchIntra => true
  | .dispatch false true false _ _, .dispatchInter => true
  | .dispatch false false _ false _, .dispatchMode => true
  | .dispatch false false _ true depth, .dispatchW2D1 => depth == 1
  | .dispatch false false _ true depth, .dispatchW2D2 => depth == 2
  | .table true, .dtab signs mags => Instr.wf (.dtab signs mags)
  | .table false, .dtConst => true
  | .tile2, .tile2Dir0 _ => true
  | .tile2, .tile2Dir1 _ => true
  | .tile2, .tile2Dir2 _ => true
  | .tile2, .tile2Edge => true
  | .pixel true, .pixCopy => true
  | .pixel false, .pixRes0 _ => true
  | .pixel false, .pixRes1 _ => true
  | .pixel false, .pixRes2 _ => true
  | .pixel false, .pixRes3 _ => true
  | .pixel false, .pixRes4 _ => true
  | .pixel false, .pixRes5 _ => true
  | .pixel false, .pixRes6 _ => true
  | .pixel false, .pixLit _ => true
  | .mb16, .mbRefCopy => true
  | .mb16, .mbMvZero => true
  | .mb16, .mbMv _ _ => true
  | .mb16, .mbSub2 => true
  | .mbEdge, .embSkip1 => true
  | .mbEdge, .embCells => true
  | .mvCopy, .mbMcCopy => true
  | .mvCopy, .mbMcSub => true
  | .gate, .gate => true
  | .sub3, .s3Dir0 _ => true
  | .sub3, .s3Dir1 _ => true
  | .sub3, .s3Dir2 _ => true
  | .sub3, .s3Edge => true
  | .sub3, .s3ResRef _ => true
  | .sub3, .s3CopyRef => true
  | .sub3, .s3ResMv _ => true
  | .sub3, .s3CopyMv => true
  | .sub2, .s2Dir0 _ => true
  | .sub2, .s2Dir1 _ => true
  | .sub2, .s2Dir2 _ => true
  | .sub2, .s2Edge => true
  | .litCell count, .embLitCell lits => lits.length == count
  | .value, .value _ => true
  | .w2Sym idx, .w2Lit _ => idx == 0
  | .w2Sym idx, .w2Run j _ => idx == j && idx != 0
  | .d2Strip1, .d2Strip1 _ => true
  | .d2Value tree, .d2Value code .backref => tree.spells code .backref
  | .d2Value tree, .d2Value code (.xor _) => tree.spells code .xor
  | .d2Value tree, .d2Value code (.lit _) => tree.spells code .lit
  | .d2Dist ifClear ifSet, .d2Dist flag .keep => (if flag then ifSet else ifClear) == .keep
  | .d2Dist ifClear ifSet, .d2Dist flag (.byte _) => (if flag then ifSet else ifClear) == .byte
  | .d2Dist ifClear ifSet, .d2Dist flag (.half _) => (if flag then ifSet else ifClear) == .half
  | .d2StripSel tree, .d2StripSel code kind => tree.spells code (some kind)
  | .d2Body .verb _, .d2Verb bytes => bytes.length == 16
  | .d2Body .back _, .d2Back => true
  | .d2Body .strip2 inBits, .d2Strip2 fromBits _ => inBits == fromBits
  | .d2Tail count, .d2Tail bytes => bytes.length == count
  | .command, .decode _ _ _ => true
  | .command, .reset => true
  | _, _ => false

/-! ## The opcode table's words

The table numbers no bits of its rows (every row's "fields" is empty), so the model lays a symbol out as one word of its
own (log 12): byte 0 is a tag for the format, bytes 1-3 the bits of `BIT1`, byte 4 those of `BIT2` or `D2B`, and the
bytes from 5 on what the symbol reads from a byte source. -/

/-- Byte `k` of the word `w`, least significant first. -/
def wordByte (w k : Nat) : Byte := BitVec.ofNat 8 (w >>> (8 * k))

/-- The bytes of a table word from byte `from` on, `n` of them. -/
def wordBytes (w start n : Nat) : List Byte := (List.range n).map fun k => wordByte w (start + k)

/-- The longest payload of a byte source: the 1536 bytes of `DTAB` (R77). -/
def longestPayload : Nat := 1536

/-- The payload of a table word: all its bytes, and zeros up to the longest instruction's. -/
def wordPayload (nbits w : Nat) : List Byte := wordBytes w 5 (max longestPayload (nbits / 8 - 5))

/-- The bits of a list of bytes, most significant first (R54). -/
def bitsOfBytes (bytes : List Byte) : List Bool := bytes.flatMap fun b => msbBits 8 b.toNat

/-- The host command of a table word: byte 5 is 0 for `RESET` and else for `DECODE`, whose stride is bytes 6-9, buffer
size bytes 10-17, and packet the rest of the word. -/
def wordCommand (nbits w : Nat) : HostCmd :=
  if wordByte w 5 = 0 then .reset
  else .decode (wordBytes w 18 (nbits / 8 - 18)) ((w >>> 48) % 2 ^ 32) ((w >>> 80) % 2 ^ 64)

/-- The format a tag stands for.  A format that depends on more than its tag takes it from the payload (the dispatch
conditions) or has one tag for each case. -/
def tagFormat (tag : Nat) (payload : List Byte) : Option Format :=
  match tag with
  | 0 => some .command
  | 1 => some (.hdr .len true false)
  | 2 => some (.hdr .magic true false)
  | 3 => some (.hdr .version true false)
  | 4 => some (.hdr .rawType true false)
  | 5 => some (.hdr .flagsAB true false)
  | 6 => some (.hdr .dims true false)
  | 7 => some (.hdr .flagsCD true false)
  | 8 => some (.hdr .alphaPresent true false)
  | 9 => some (.hdr .alpha true false)
  | 10 => some (.hdr .alpha false false)
  | 11 => some (.hdr .anim true false)
  | 12 => some (.hdr .first true false)
  | 13 => some (.hdr .size true false)
  | 14 => some (.hdr .index true true)
  | 15 => some (.hdr .index true false)
  | 16 => some (.hdr .xval true false)
  | 17 => some (.hdr .dataEnd true false)
  | 18 => some (.hdr .qpGate true false)
  | 19 => some (.dispatch (flagAt 0) (flagAt 1) (flagAt 2) (flagAt 3) ((payload.getD 4 0).setWidth 16))
  | 20 => some (.table false)
  | 21 => some (.table true)
  | 22 => some .tile2
  | 23 => some (.pixel true)
  | 24 => some (.pixel false)
  | 25 => some .mb16
  | 26 => some .mbEdge
  | 27 => some .mvCopy
  | 28 => some .gate
  | 29 => some .sub3
  | 30 => some .sub2
  | 31 => some (.litCell 4)
  | 32 => some .value
  | 33 => some (.w2Sym 0)
  | 34 => some (.w2Sym 1)
  | 35 => some .d2Strip1
  | 36 => some (.d2Value (D2Coding.sample.kind1.getD 0 (.leaf .lit)))
  | 37 => some (.d2Dist D2Coding.sample.distIfClear D2Coding.sample.distIfSet)
  | 38 => some (.d2StripSel D2Coding.sample.selector)
  | 39 => some (.d2Body .verb D2Coding.sample.maskInBits)
  | 40 => some (.d2Body .back D2Coding.sample.maskInBits)
  | 41 => some (.d2Body .strip2 D2Coding.sample.maskInBits)
  | 42 => some (.d2Tail 4)
  | _ => none
where
  flagAt (k : Nat) : Bool := payload.getD k 0 != 0

/-- The streams of a table word: every bit cursor and every byte source over the word's own bytes. -/
def wordStreams (nbits w : Nat) : Streams :=
  let bits := bitsOfBytes (wordBytes w 1 3)
  let more := bitsOfBytes (wordBytes w 4 1)
  let bytes := wordPayload nbits w
  { bit1 := bits, bit2 := more, d2b := more, header := bytes, maskc := bytes, litc := bytes, tabc := bytes,
    edgelit := bytes, idx := bytes, lit := bytes, run := bytes, d2l := bytes, d2dist := bytes, d2key := bytes,
    d2mask := bytes, cmd := some (wordCommand nbits w) }

/-- The instruction the decoder reads from a table word (log 12). -/
def decodeTableWord (nbits w : Nat) : Option Instr :=
  match tagFormat (wordByte w 0).toNat (wordPayload nbits w) with
  | none => none
  | some f =>
    match decode f (wordStreams nbits w) with
    | .ok i => some i
    | .error _ => none

end Sys2Proof
end

