-- ==== Sys2Proof/Machine/State.lean ====
section
/-! DEFINITION. The state of QMDEC as plain data (10_state.md R20-R35), what the host holds, the reasons a step can stop
without a next state, and the state after reset (10_state.md R40). -/

namespace Sys2Proof.Machine

open Sys2Proof

/-- A byte memory: rising addresses, no entry equal to 0, an unlisted byte reads 0 (log 6). -/
abbrev Memory := List Host.Cell

/-- A pixel store in the same form, keyed by `pixKey x y`. -/
abbrev Pixels := List (Nat × Half)

/-- `STATUS.phase` (R22). -/
inductive Phase where
  | idle | busy | done
  deriving DecidableEq, Repr

/-- `STATUS.code` (R22, 60_exceptions.md R282). -/
inductive Code where
  | ok | invalidData | unsupported | allocFail
  deriving DecidableEq, Repr

/-- The two bits of `STATUS.code` (R282). -/
def Code.bits : Code → BitVec 2
  | .ok => 0
  | .invalidData => 1
  | .unsupported => 2
  | .allocFail => 3

/-- `STATUS` (R22). -/
structure Status where
  phase : Phase
  code : Code
  deriving DecidableEq, Repr

/-- `REF` (R23). -/
structure RefFrame where
  valid : Bool
  w : Half
  h : Half
  pix : Pixels
  deriving DecidableEq, Repr

/-- `OUT` (R24). -/
structure OutDesc where
  w : Half
  h : Half
  keyFrame : Bool
  transparency : Bool
  alphaOffset : Word
  animated : Bool
  totalFrames : Half
  currentFrame : Half
  delayMs : Half
  noRepeat : Byte
  deriving DecidableEq, Repr

/-- `HDR` (R26), with `legacy` (40_header.md R102), `alpha_field` (R107), `is_first` (R117), `data_end` (R115) and the
place where the colour-plane data starts (R111, log 8).  `gray` is also `android_support` (R37). -/
structure Header where
  version : Byte
  legacy : Bool
  rawType : Byte
  flagsA : Byte
  flagsB : Byte
  flagsC : Byte
  flagsD : Byte
  w : Half
  h : Half
  transparency : Bool
  animated : Bool
  encoderMode : Half
  depth : Half
  dynamicTable : Bool
  extraException : Bool
  gray : Bool
  indexColor : Bool
  premultiplied : Bool
  isOpaque : Bool
  ninePatch : Bool
  notAlphaComposited : Bool
  alphaField : Bool
  alphaRaw : Word
  alphaMode : Byte
  alphaBytes : Word
  totalFrames : Half
  currentFrame : Half
  delayMs : Half
  noRepeat : Byte
  isFirst : Bool
  colorCount : Word
  headerSize : BitVec 5
  dataStart : Nat
  dataEnd : Nat
  qpGate : Bool
  deriving DecidableEq, Repr

/-- `android_support` is the bit of `gray` under another name (R37). -/
def Header.androidSupport (h : Header) : Bool := h.gray

/-- `SEQ.unit` (R31). -/
inductive SeqUnit where
  | hdr | a9llIntra | a9llInter | w2d1 | w2d2 | complete
  deriving DecidableEq, Repr

/-- Which sub-block sequence of a macroblock runs (43_a9ll_inter.md R176, R177, R187). -/
inductive SubKind where
  | sub3 | sub2 | cells
  deriving DecidableEq, Repr

/-- What a 4x4 tile belongs to: the intra frame, or a sub-block sequence. -/
inductive TileKind where
  | frame
  | within (k : SubKind)
  deriving DecidableEq, Repr

/-- The predictor of a tile (42_a9ll_intra.md R149): `Pred` in a direction, `Ref` at the pixel, `Ref` at the vector. -/
inductive Predictor where
  | dir (d : Dir)
  | ref
  | refMv
  deriving DecidableEq, Repr

/-- Which depth-2 strip holds the value being read; a later strip has its presence mask (45_w2_depth2.md R222, R229). -/
inductive Strip where
  | first
  | later (mask : Byte)
  deriving DecidableEq, Repr

/-- The control point of the sequencer: the place in the rules' pseudocode that R31's `SEQ` implies (log 4). -/
inductive Stage where
  /-- No DECODE runs: a host command is taken next. -/
  | idle
  /-- A step of the header front end (40_header.md R118). -/
  | hdr (k : HdrStep)
  /-- The orchestrator's checks after the front end (46_orchestrator.md R244, R259). -/
  | orchestrate
  /-- The family dispatch (R259). -/
  | dispatch
  /-- The delta-table load (42_a9ll_intra.md R162). -/
  | table
  /-- An intra frame of partial tiles, as P19 says (R163). -/
  | partialFrame
  /-- An intra tile (R146). -/
  | tile
  /-- A macroblock (43_a9ll_inter.md R170). -/
  | mb
  /-- The copy bit after a vector (R173, R174). -/
  | mvCopy
  /-- The gate before a sub-block sequence (R178). -/
  | gate (k : SubKind)
  /-- The next sub-block or cell of a sequence. -/
  | sub (k : SubKind)
  /-- The next pixel of a predicted tile (42_a9ll_intra.md R149). -/
  | pixel (pr : Predictor) (k : TileKind)
  /-- The next index value of the depth-1 stream (44_w2_depth1.md R203). -/
  | w2Index
  /-- The rest of the depth-1 symbol with this index. -/
  | w2Sym (idx : Nat)
  /-- The first strip's literal (45_w2_depth2.md R222). -/
  | d2Strip1
  /-- The distance update before value `j` of a strip (R224). -/
  | d2Dist (strip : Strip) (j : Nat)
  /-- Value `j` of a strip (R223). -/
  | d2Value (strip : Strip) (j : Nat)
  /-- The selector of a later strip (R226). -/
  | d2Sel
  /-- The selected later strip. -/
  | d2Body (kind : StripKind)
  /-- The tail (R231). -/
  | d2Tail
  /-- Completion (46_orchestrator.md R254, R255). -/
  | complete
  deriving DecidableEq, Repr

/-- `SEQ` (R31): the unit, the tile or macroblock index, the sub-block index (in an edge macroblock the cell index), the
pixel position, and the control point (log 4).  What the indices hold outside the loops that write them is the model's choice
(log 19). -/
structure Seq where
  unit : SeqUnit
  t : Nat
  s : Nat
  p : Nat
  stage : Stage
  deriving DecidableEq, Repr

/-- The memory a cursor reads (41_readers.md R125). -/
inductive CurMem where
  | packet | ibuf
  deriving DecidableEq, Repr

/-- A bit cursor (R28, 41_readers.md R126).  R28 gives `end` 32 and `bitpos` 35 bits, and P17 may be 2^32 (R212): with
`L = 2^32` an `end` of `L` and a `bitpos` of `8*L` do not fit.  The model keeps unbounded naturals (DESIGN CHOICE, log 15). -/
structure BitCursor where
  mem : CurMem
  start : Nat
  stop : Nat
  bitpos : Nat
  deriving DecidableEq, Repr

/-- A byte cursor (R29, 41_readers.md R133), of unbounded naturals too (DESIGN CHOICE, log 15). -/
structure ByteCursor where
  mem : CurMem
  start : Nat
  stop : Nat
  pos : Nat
  deriving DecidableEq, Repr

/-- The physical byte cursors of a reader set (41_readers.md R144). -/
structure ByteBank where
  p0 : ByteCursor
  p1 : ByteCursor
  p2 : ByteCursor
  p3 : ByteCursor
  deriving DecidableEq, Repr

/-- `MV` (R32), signed. -/
structure MotionVector where
  x : Int
  y : Int
  deriving DecidableEq, Repr

/-- The working registers whose reading before their writing is a fault (R39), in the groups they are written in. -/
inductive Reg where
  | version | rawType | flagsAB | dims | flagsCD | alphaField | alphaRaw | alphaBytes | anim | isFirst | headerSize
  | colorCount | dataEnd | qpGate | rsA9LL | dt | mv | mask | rsW2D1 | pixelCount | run | entry | rsW2D2 | size | ibuf
  | ipos | dist
  deriving DecidableEq, Repr

/-- The state. -/
structure State where
  /-- `CFG`; no step changes it (R21). -/
  cfg : Config
  status : Status
  ref : RefFrame
  out : OutDesc
  /-- `F` (R25). -/
  frame : Pixels
  hdr : Header
  seq : Seq
  bit1 : BitCursor
  bit2 : BitCursor
  d2b : BitCursor
  /-- The physical cursors behind `MASKC`, `LITC`, `TABC`, `EDGELIT`, and which each of them is (R29). -/
  a9 : ByteBank
  a9map : A9Map
  /-- `TAB`, read by random access only (44_w2_depth1.md R201). -/
  tab : ByteCursor
  idx : ByteCursor
  lit : ByteCursor
  /-- The physical cursors behind `D2L` and P14's others. -/
  d2 : ByteBank
  dt : List Half
  mv : MotionVector
  mask : Half
  /-- `K`, `N`, `RUN`, `ENTRY` (R34). -/
  k : Nat
  n : Nat
  run : Nat
  entry : Word
  /-- `S`, `IBUF`, `IPOS`, `DIST` (R35). -/
  size : Nat
  ibuf : Memory
  ipos : Nat
  dist : Nat
  /-- The working registers this DECODE has written, without repeats (R39, log 5). -/
  written : List Reg
  /-- The host's packet `P`, its length `L`, the stride and the size of the output buffer (46_orchestrator.md R241). -/
  pkt : Memory
  len : Nat
  stride : Nat
  cap : Nat
  /-- The host's output buffer: the bytes written, at rising addresses; an unlisted byte has no value (log 6). -/
  outBuf : Memory
  /-- The commands the host will issue, in order (log 3). -/
  queue : List HostCmd
  /-- How many DECODEs have failed: numbers the free values a failure leaves (log 7). -/
  frees : Nat
  deriving DecidableEq, Repr

/-- The spaces of 20_memory.md R60. -/
inductive Space where
  | packet | frame | ref | ibuf | deltaTable | maskBits
  deriving DecidableEq, Repr

/-- The model's faults: none is a hardware status, and no rule of the spec leads to one from reset. -/
inductive Fault where
  /-- A working register read before this DECODE wrote it: every reading operation raises it, as R39 asks.  Safe. -/
  | unwritten (r : Reg)
  /-- An access outside a space of 20_memory.md R60, raised by the operation that would make it.  Safe. -/
  | outOfBounds (sp : Space)
  /-- `REF` read while `REF.valid = 0` (R23), raised by the reference reads.  Safe. -/
  | noReference
  /-- `exec` was given a symbol at which the sequencer does not stand (R31), raised by every meaning.  Safe (log 4). -/
  | outOfSequence
  deriving DecidableEq, Repr

/-- Inputs to which the spec gives no meaning (93_implementation_defined.md, treatment `refuse`). -/
inductive Refusal where
  /-- An instruction without a meaning in this model: raised by `exec`'s refused arms only.  Safe. -/
  | notModelled (mnemonic : String)
  /-- DECODE or RESET while `STATUS.phase = BUSY` (46_orchestrator.md R242, 70_reset_and_hazards.md R286): raised by the
  two commands.  Safe. -/
  | busy
  /-- A packet longer than P17 (46_orchestrator.md R241): raised by DECODE.  Safe (log 10). -/
  | packetTooLong
  /-- `stride < 2*W` (46_orchestrator.md R243): raised by the orchestrator.  Safe (log 9). -/
  | strideTooSmall
  /-- An output buffer below `(H-1)*stride + 2*W` bytes (70_reset_and_hazards.md R287): raised by the orchestrator.
  Safe (log 9). -/
  | bufferTooSmall
  /-- An index-colour frame under P15 = REFUSE (40_header.md R111): raised by the orchestrator.  Safe. -/
  | indexColor
  /-- A partial intra frame under P19 = REFUSE (42_a9ll_intra.md R163): raised by DISPATCH.INTRA, and by the step that
  applies P19.  Safe. -/
  | intraPartial
  /-- A depth-2 frame while P14 has no value (93_implementation_defined.md): raised by DISPATCH.W2D2 and the depth-2
  symbols.  Safe. -/
  | noD2Coding
  deriving DecidableEq, Repr

/-- The header at reset (log 1). -/
def Header.zero : Header :=
  { version := 0, legacy := false, rawType := 0, flagsA := 0, flagsB := 0, flagsC := 0, flagsD := 0, w := 0, h := 0,
    transparency := false, animated := false, encoderMode := 0, depth := 0, dynamicTable := false,
    extraException := false, gray := false, indexColor := false, premultiplied := false, isOpaque := false,
    ninePatch := false, notAlphaComposited := false, alphaField := false, alphaRaw := 0, alphaMode := 0,
    alphaBytes := 0, totalFrames := 0, currentFrame := 0, delayMs := 0, noRepeat := 0, isFirst := false,
    colorCount := 0, headerSize := 0, dataStart := 0, dataEnd := 0, qpGate := false }

/-- An empty cursor at 0 (log 1). -/
def BitCursor.zero : BitCursor := { mem := .packet, start := 0, stop := 0, bitpos := 0 }

/-- An empty cursor at 0 (log 1). -/
def ByteCursor.zero : ByteCursor := { mem := .packet, start := 0, stop := 0, pos := 0 }

/-- Four empty cursors at 0 (log 1). -/
def ByteBank.zero : ByteBank :=
  { p0 := ByteCursor.zero, p1 := ByteCursor.zero, p2 := ByteCursor.zero, p3 := ByteCursor.zero }

/-- `SEQ` while no DECODE runs. -/
def Seq.atRest : Seq := { unit := .hdr, t := 0, s := 0, p := 0, stage := .idle }

/-- The machine right after reset (R40, 70_reset_and_hazards.md R285): `STATUS` is IDLE and OK and `REF.valid` is 0, as
the spec says; every other item is unspecified there and has the value log 1 names; `CFG` is TC0 (log 2). -/
def State.reset : State :=
  { cfg := Config.tc0
    status := { phase := .idle, code := .ok }
    ref := { valid := false, w := 0, h := 0, pix := [] }
    out := { w := 0, h := 0, keyFrame := false, transparency := false, alphaOffset := 0, animated := false,
             totalFrames := 0, currentFrame := 0, delayMs := 0, noRepeat := 0 }
    frame := []
    hdr := Header.zero
    seq := Seq.atRest
    bit1 := BitCursor.zero
    bit2 := BitCursor.zero
    d2b := BitCursor.zero
    a9 := ByteBank.zero
    a9map := { maskc := .p0, litc := .p0, tabc := .p0, edgelit := .p0 }
    tab := ByteCursor.zero
    idx := ByteCursor.zero
    lit := ByteCursor.zero
    d2 := ByteBank.zero
    dt := List.replicate 511 0
    mv := { x := 0, y := 0 }
    mask := 0
    k := 0
    n := 0
    run := 0
    entry := 0
    size := 0
    ibuf := []
    ipos := 0
    dist := 0
    written := []
    pkt := []
    len := 0
    stride := 0
    cap := 0
    outBuf := []
    queue := []
    frees := 0 }

end Sys2Proof.Machine
end

