-- ==== Sys2Proof/Machine/Ops.lean ====
section
/-! DEFINITION. The operations every meaning is made of: how a rule ends (60_exceptions.md R266), the sparse stores, the
working registers' "written" marks (10_state.md R39), pixels of `F` and `REF`, and bytes of the memories. -/

namespace Sys2Proof.Machine

open Sys2Proof

/-! ## How a rule ends -/

/-- Why a rule stops before its end: a raised error (60_exceptions.md R266), a model fault, a refusal. -/
inductive Stop where
  | raise (e : Err)
  | fault (f : Fault)
  | refuse (r : Refusal)
  deriving DecidableEq, Repr

/-- A rule's computation: a value, or the reason it stopped. -/
abbrev Act (α : Type) := Except Stop α

/-- The status code of an error (R282). -/
def errCode : Err → Code
  | .invalidData => .invalidData
  | .unsupported => .unsupported
  | .allocFail => .allocFail

/-- A check whose failure raises `e`. -/
def require (b : Bool) (e : Err) : Act Unit := if b then .ok () else .error (.raise e)

/-- The sequencer stands at the symbol (10_state.md R31, log 4). -/
def expect (b : Bool) : Act Unit := if b then .ok () else .error (.fault .outOfSequence)

/-! ## Sparse stores -/

/-- The value at `a`; an unlisted key reads 0. -/
def Store.get {n : Nat} : List (Nat × BitVec n) → Nat → BitVec n
  | [], _ => 0
  | (k, v) :: rest, a => if a = k then v else Store.get rest a

/-- The entry at `a`, if one is listed. -/
def Store.find {n : Nat} : List (Nat × BitVec n) → Nat → Option (BitVec n)
  | [], _ => none
  | (k, v) :: rest, a => if a = k then some v else Store.find rest a

/-- List `v` at `a`, in its place by rising key. -/
def Store.put {n : Nat} : List (Nat × BitVec n) → Nat → BitVec n → List (Nat × BitVec n)
  | [], a, v => [(a, v)]
  | (k, w) :: rest, a, v =>
    if a < k then (a, v) :: (k, w) :: rest
    else if a = k then (a, v) :: rest
    else (k, w) :: Store.put rest a v

/-- List nothing at `a`. -/
def Store.del {n : Nat} : List (Nat × BitVec n) → Nat → List (Nat × BitVec n)
  | [], _ => []
  | (k, w) :: rest, a => if a = k then Store.del rest a else (k, w) :: Store.del rest a

/-- Write `v` at `a`: writing 0, which an unlisted key reads as, removes the entry. -/
def Store.set {n : Nat} (m : List (Nat × BitVec n)) (a : Nat) (v : BitVec n) : List (Nat × BitVec n) :=
  if v = 0 then Store.del m a else Store.put m a v

/-- The keys rise strictly, from `low` on. -/
def Store.rising {n : Nat} : Nat → List (Nat × BitVec n) → Bool
  | _, [] => true
  | low, (k, _) :: rest => decide (low ≤ k) && Store.rising (k + 1) rest

/-- The one canonical form of a store whose unlisted keys read 0. -/
def Store.wf {n : Nat} (m : List (Nat × BitVec n)) : Bool :=
  Store.rising 0 m && m.all fun e => e.2 != 0

/-- The canonical form of a byte memory (log 6). -/
def Memory.wf (m : Memory) : Bool := Store.wf m

/-- Write bytes at rising addresses. -/
def Memory.setBytes (m : Memory) (a : Nat) : List Byte → Memory
  | [] => m
  | b :: rest => Memory.setBytes (Store.set m a b) (a + 1) rest

/-- `MemRead(P, a, 2)` (00_scope.md R11): little-endian. -/
def Memory.u16 (m : Memory) (a : Nat) : Half := le16 (Store.get m a) (Store.get m (a + 1))

/-- `MemRead(P, a, 4)` (00_scope.md R11): little-endian. -/
def Memory.u32 (m : Memory) (a : Nat) : Word :=
  le32 (Store.get m a) (Store.get m (a + 1)) (Store.get m (a + 2)) (Store.get m (a + 3))

/-- The canonical store with these entries, a later one replacing an earlier one. -/
def Store.ofList {n : Nat} (entries : List (Nat × BitVec n)) : List (Nat × BitVec n) :=
  entries.foldl (fun m e => Store.set m e.1 e.2) []

/-! ## Raising an error -/

/-- `OUT` after failure `count`: any value (60_exceptions.md R267; log 7). -/
def freeOut (count : Nat) : OutDesc :=
  let item := Config.freeWord count
  { w := (item 0).setWidth 16
    h := (item 1).setWidth 16
    keyFrame := (item 2).getLsbD 0
    transparency := (item 3).getLsbD 0
    alphaOffset := item 4
    animated := (item 5).getLsbD 0
    totalFrames := (item 6).setWidth 16
    currentFrame := (item 7).setWidth 16
    delayMs := (item 8).setWidth 16
    noRepeat := (item 9).setWidth 8 }

/-- The host's buffer of `cap` bytes after failure `count`: any bytes (60_exceptions.md R267; log 7). -/
def freeBuffer (cap count : Nat) : Memory :=
  ((Config.freeCells count).filter fun e => decide (e.1 < cap)).foldl (fun m e => Store.put m e.1 e.2) []

/-- `raise E` (60_exceptions.md R266, 46_orchestrator.md R257): the DECODE ends with the error's code; `F`, `OUT` and the
output buffer hold any value (R267; log 7); `REF`, `CFG` and everything else keep their values. -/
def State.fail (s : State) (e : Err) : State :=
  { s with
    status := { phase := .done, code := errCode e }
    seq := { s.seq with stage := .idle }
    frame := Store.ofList (Config.freePixels s.frees)
    out := freeOut s.frees
    outBuf := freeBuffer s.cap s.frees
    frees := s.frees + 1 }

/-- The outcome of a rule that started in `s`: its next state, or the state a raised error leaves (R266), or a stop. -/
def finish (s : State) : Act State → Host.Outcome State Fault Refusal
  | .ok t => .next t
  | .error (.raise e) => .next (s.fail e)
  | .error (.fault f) => .fault f
  | .error (.refuse r) => .refused r

/-! ## Working registers -/

/-- Read a working register: a fault unless this DECODE has written it (R39). -/
def State.rd {α : Type} (s : State) (r : Reg) (v : α) : Act α :=
  if r ∈ s.written then .ok v else .error (.fault (.unwritten r))

/-- Mark a working register as written by this DECODE. -/
def State.mark (s : State) (r : Reg) : State :=
  { s with written := if r ∈ s.written then s.written else r :: s.written }

/-- Write the header descriptor and mark the group of fields written. -/
def State.setHdr (s : State) (r : Reg) (h : Header) : State := { s with hdr := h }.mark r

/-- Move the sequencer to another control point. -/
def State.goto (s : State) (stage : Stage) : State := { s with seq := { s.seq with stage := stage } }

/-- The unit is complete: the completion step is next (46_orchestrator.md R254). -/
def State.gotoComplete (s : State) : State :=
  { s with seq := { s.seq with unit := .complete, stage := .complete } }

/-- `W` and `H` (00_scope.md R12). -/
def State.dims (s : State) : Act (Nat × Nat) := s.rd .dims (s.hdr.w.toNat, s.hdr.h.toNat)

/-! ## Pixels -/

/-- The key of pixel `(x, y)` in a pixel store: coordinates are below 2^16 (00_scope.md R7). -/
def pixKey (x y : Nat) : Nat := y * 65536 + x

/-- The value at pixel `(x, y)` of a pixel store. -/
def Pixels.at (f : Pixels) (x y : Nat) : Half := Store.get f (pixKey x y)

/-- The positions of a `w x h` rectangle in raster order (00_scope.md R12), as (column, row). -/
def raster (w h : Nat) : List (Nat × Nat) :=
  (List.range h).flatMap fun r => (List.range w).map fun c => (c, r)

/-- Write `f x y` to each pixel `(x, y)` of the `w x h` rectangle at `(x0, y0)`, in raster order. -/
def Pixels.fill (m : Pixels) (x0 y0 w h : Nat) (f : Nat → Nat → Half) : Pixels :=
  (raster w h).foldl (fun m p => Store.set m (pixKey (x0 + p.1) (y0 + p.2)) (f (x0 + p.1) (y0 + p.2))) m

/-- `F(x, y) <- v` (00_scope.md R11), inside the frame only (20_memory.md R59, R60). -/
def State.putPixel (s : State) (x y : Nat) (v : Half) : Act State := do
  let (w, h) ← s.dims
  if x < w ∧ y < h then .ok { s with frame := Store.set s.frame (pixKey x y) v }
  else .error (.fault (.outOfBounds .frame))

/-- `F(x, y) <- f x y` over a rectangle that lies inside the frame. -/
def State.fillRect (s : State) (x0 y0 w h : Nat) (f : Nat → Nat → Half) : Act State := do
  let (fw, fh) ← s.dims
  if x0 + w ≤ fw ∧ y0 + h ≤ fh then .ok { s with frame := s.frame.fill x0 y0 w h f }
  else .error (.fault (.outOfBounds .frame))

/-- `Pred(x, y)` (42_a9ll_intra.md R147): `F(x, y)` inside the image, 0 outside. -/
def State.pred (s : State) (x y : Int) : Act Half := do
  let (w, h) ← s.dims
  if 0 ≤ x ∧ x < w ∧ 0 ≤ y ∧ y < h then .ok (s.frame.at x.toNat y.toNat) else .ok 0

/-- The rectangle lies inside `REF`, which is valid (20_memory.md R60, 43_a9ll_inter.md R192). -/
def State.needRef (s : State) (x y : Int) (w h : Nat) : Act Unit :=
  if !s.ref.valid then .error (.fault .noReference)
  else if 0 ≤ x ∧ x + w ≤ s.ref.w.toNat ∧ 0 ≤ y ∧ y + h ≤ s.ref.h.toNat then .ok ()
  else .error (.fault (.outOfBounds .ref))

/-- `Ref(x, y)` (R27) at coordinates that `needRef` has checked. -/
def State.refAt (s : State) (x y : Int) : Half := s.ref.pix.at x.toNat y.toNat

/-- `F(x, y) <- Ref(x + dx, y + dy)` over an `n x n` square. -/
def State.copyRef (s : State) (x0 y0 n : Nat) (dx dy : Int) : Act State := do
  s.needRef (x0 + dx) (y0 + dy) n n
  s.fillRect x0 y0 n n fun x y => s.refAt (x + dx) (y + dy)

/-- `INSIDE(x, y, w, h)` (43_a9ll_inter.md R190), in the integers. -/
def inside (fw fh : Nat) (x y : Int) (w h : Nat) : Bool :=
  decide (0 ≤ x) && decide (x + w ≤ fw) && decide (0 ≤ y) && decide (y + h ≤ fh)

/-! ## Bytes -/

/-- The memory a cursor reads. -/
def State.mem (s : State) : CurMem → Memory
  | .packet => s.pkt
  | .ibuf => s.ibuf

/-- The length of the memory a cursor reads: `L` or `S`. -/
def State.memLen (s : State) : CurMem → Nat
  | .packet => s.len
  | .ibuf => s.size

/-- `IBUF[a] <- b`, inside the buffer only (20_memory.md R60). -/
def State.putIbuf (s : State) (a : Nat) (b : Byte) : Act State := do
  let m ← s.rd .ibuf s.ibuf
  let size ← s.rd .size s.size
  if a < size then .ok { s with ibuf := Store.set m a b } else .error (.fault (.outOfBounds .ibuf))

/-- `IBUF[a]`, inside the buffer only. -/
def State.getIbuf (s : State) (a : Nat) : Act Byte := do
  let m ← s.rd .ibuf s.ibuf
  let size ← s.rd .size s.size
  if a < size then .ok (Store.get m a) else .error (.fault (.outOfBounds .ibuf))

/-- Write bytes to `IBUF` at rising addresses from `a` on. -/
def State.putIbufBytes (s : State) (a : Nat) : List Byte → Act State
  | [] => .ok s
  | b :: rest => do
    let s ← s.putIbuf a b
    s.putIbufBytes (a + 1) rest

end Sys2Proof.Machine
end

