-- ==== Sys2Proof/Machine/Operands.lean ====
section
/-! DEFINITION. The bitstream reader array (41_readers.md R125-R139): the cursors, their reads, and the assembly of
operands (30_encoding.md R86). -/

namespace Sys2Proof.Machine

open Sys2Proof

/-! ## Bit cursors -/

/-- `avail` of a bit cursor (R126). -/
def BitCursor.avail (c : BitCursor) : Nat := 8 * (c.stop - c.start) - c.bitpos

/-- Bit `k` of a bit cursor over memory `m` (R128): bit `7 - (k mod 8)` of byte `M[start + k div 8]`. -/
def BitCursor.bitAt (c : BitCursor) (m : Memory) (k : Nat) : Bool :=
  (Store.get m (c.start + k / 8)).getLsbD (7 - k % 8)

/-- The next `n` bits of a bit cursor, in reading order (R129). -/
def BitCursor.bits (c : BitCursor) (m : Memory) (n : Nat) : List Bool :=
  (List.range n).map fun j => c.bitAt m (c.bitpos + j)

/-- `BitRead(c, n)` (R130-R132): the value, and the cursor after it; an overrun raises `INVALID_DATA`. -/
def BitCursor.read (c : BitCursor) (m : Memory) (n : Nat) : Act (Nat × BitCursor) :=
  if c.avail < n then .error (.raise .invalidData)
  else .ok (valueOfBits (c.bits m n), { c with bitpos := c.bitpos + n })

/-! ## Byte cursors -/

/-- `avail` of a byte cursor (R133). -/
def ByteCursor.avail (c : ByteCursor) : Nat := c.stop - c.pos

/-- The next `n` bytes of a byte cursor. -/
def ByteCursor.bytes (c : ByteCursor) (m : Memory) (n : Nat) : List Byte :=
  (List.range n).map fun j => Store.get m (c.pos + j)

/-- `ReadBytes(c, n)` (R138), and with `n` = 1, 2, 4 the bytes of `ReadU8`, `ReadU16`, `ReadU32` (R135-R137): an overrun
raises `INVALID_DATA` and reads nothing (R134). -/
def ByteCursor.read (c : ByteCursor) (m : Memory) (n : Nat) : Act (List Byte × ByteCursor) :=
  if c.avail < n then .error (.raise .invalidData)
  else .ok (c.bytes m n, { c with pos := c.pos + n })

/-- `TableRead(t, j)` (R139): entry `j` of the table region; the cursor does not move. -/
def ByteCursor.tableRead (t : ByteCursor) (m : Memory) (j : Nat) : Act Word :=
  if t.stop < t.start + 4 * j + 4 then .error (.raise .invalidData)
  else .ok (Memory.u32 m (t.start + 4 * j))

/-! ## The physical cursors of a reader set -/

/-- A physical cursor (R144). -/
def ByteBank.get (b : ByteBank) : Phys → ByteCursor
  | .p0 => b.p0
  | .p1 => b.p1
  | .p2 => b.p2
  | .p3 => b.p3

/-- Replace a physical cursor. -/
def ByteBank.set (b : ByteBank) (c : ByteCursor) : Phys → ByteBank
  | .p0 => { b with p0 := c }
  | .p1 => { b with p1 := c }
  | .p2 => { b with p2 := c }
  | .p3 => { b with p3 := c }

/-- P14, or the refusal of a depth-2 frame without it (93_implementation_defined.md). -/
def State.coding (s : State) : Act D2Coding :=
  match s.cfg.d2 with
  | some d => .ok d
  | none => .error (.refuse .noD2Coding)

/-! ## Named cursors -/

/-- The bit cursor of this name. -/
def State.bitCur (s : State) : BitCur → BitCursor
  | .bit1 => s.bit1
  | .bit2 => s.bit2
  | .d2b => s.d2b

/-- The reader set a bit cursor belongs to. -/
def bitCurReg : BitCur → Reg
  | .bit1 => .rsA9LL
  | .bit2 => .rsA9LL
  | .d2b => .rsW2D2

/-- Replace the bit cursor of this name. -/
def State.setBitCur (s : State) (c : BitCursor) : BitCur → State
  | .bit1 => { s with bit1 := c }
  | .bit2 => { s with bit2 := c }
  | .d2b => { s with d2b := c }

/-- A byte cursor to read from, once its reader set is built: the register group, the physical cursor, and how to
replace it (R144, parameters P6, P13, P14).  The packet header has no cursor. -/
def State.byteCur (s : State) : ByteCur → Act ByteCursor
  | .header => .error (.fault .outOfSequence)
  | .maskc => s.rd .rsA9LL (s.a9.get s.a9map.maskc)
  | .litc => s.rd .rsA9LL (s.a9.get s.a9map.litc)
  | .tabc => s.rd .rsA9LL (s.a9.get s.a9map.tabc)
  | .edgelit => s.rd .rsA9LL (s.a9.get s.a9map.edgelit)
  | .idx => s.rd .rsW2D1 s.idx
  | .lit => s.rd .rsW2D1 s.lit
  | .run =>
    match s.cfg.w2Layout.runFrom with
    | .idx => s.rd .rsW2D1 s.idx
    | .lit => s.rd .rsW2D1 s.lit
  | .d2l => do
    let d ← s.coding
    s.rd .rsW2D2 (s.d2.get d.litCur)
  | .d2dist => do
    let d ← s.coding
    s.rd .rsW2D2 (s.d2.get d.distCur)
  | .d2key => do
    let d ← s.coding
    s.rd .rsW2D2 (s.d2.get d.keyCur)
  | .d2mask => do
    let d ← s.coding
    s.rd .rsW2D2 (s.d2.get d.maskCur)

/-- Replace the byte cursor of this name: the one physical cursor it is (R144). -/
def State.setByteCur (s : State) (c : ByteCursor) : ByteCur → State
  | .header => s
  | .maskc => { s with a9 := s.a9.set c s.a9map.maskc }
  | .litc => { s with a9 := s.a9.set c s.a9map.litc }
  | .tabc => { s with a9 := s.a9.set c s.a9map.tabc }
  | .edgelit => { s with a9 := s.a9.set c s.a9map.edgelit }
  | .idx => { s with idx := c }
  | .lit => { s with lit := c }
  | .run =>
    match s.cfg.w2Layout.runFrom with
    | .idx => { s with idx := c }
    | .lit => { s with lit := c }
  | .d2l => { s with d2 := setPhys fun d => d.litCur }
  | .d2dist => { s with d2 := setPhys fun d => d.distCur }
  | .d2key => { s with d2 := setPhys fun d => d.keyCur }
  | .d2mask => { s with d2 := setPhys fun d => d.maskCur }
where
  /-- The depth-2 bank with the cursor that P14 names replaced. -/
  setPhys (which : D2Coding → Phys) : ByteBank :=
    match s.cfg.d2 with
    | some d => s.d2.set c (which d)
    | none => s.d2

/-- The memory a cursor reads is there: `P` and `L` come with the command, `IBUF` and `S` are working registers (R39). -/
def State.needMem (s : State) : CurMem → Act Unit
  | .packet => .ok ()
  | .ibuf => do
    s.rd .ibuf ()
    s.rd .size ()

/-- A region lies inside its memory (20_memory.md R60). -/
def State.within (s : State) (mem : CurMem) (stop : Nat) : Act Unit := do
  s.needMem mem
  if stop ≤ s.memLen mem then .ok ()
  else .error (.fault (.outOfBounds (match mem with | .packet => .packet | .ibuf => .ibuf)))

/-- The bit cursor of this name, written by this DECODE (R39) and over a region of its memory. -/
def State.liveBit (s : State) (id : BitCur) : Act BitCursor := do
  let c ← s.rd (bitCurReg id) (s.bitCur id)
  s.within c.mem c.stop
  .ok c

/-- The byte cursor of this name, written by this DECODE (R39) and over a region of its memory. -/
def State.liveByte (s : State) (id : ByteCur) : Act ByteCursor := do
  let c ← s.byteCur id
  s.within c.mem c.stop
  .ok c

/-- `BitRead` on a named cursor: the value, and the state with the cursor moved. -/
def State.readBits (s : State) (id : BitCur) (n : Nat) : Act (Nat × State) := do
  let c ← s.liveBit id
  let (v, c) ← c.read (s.mem c.mem) n
  .ok (v, s.setBitCur c id)

/-- `ReadBytes` on a named cursor: the bytes, and the state with the cursor moved. -/
def State.readBytes (s : State) (id : ByteCur) (n : Nat) : Act (List Byte × State) := do
  let c ← s.liveByte id
  let (bs, c) ← c.read (s.mem c.mem) n
  .ok (bs, s.setByteCur c id)

/-- Take the bits of a decoded field: the cursor moves past them, or the read overruns (R131). -/
def State.skipBits (s : State) (id : BitCur) (n : Nat) : Act State := do
  let (_, s) ← s.readBits id n
  .ok s

/-- Take the bytes of a decoded field: the cursor moves past them, or the read overruns (R134). -/
def State.skipBytes (s : State) (id : ByteCur) (n : Nat) : Act State := do
  let (_, s) ← s.readBytes id n
  .ok s

/-- The bits a cursor has left, at most `n` of them. -/
def State.peekBits (s : State) (id : BitCur) (n : Nat) : Act (List Bool) := do
  let c ← s.liveBit id
  .ok (c.bits (s.mem c.mem) (min n c.avail))

/-- The bytes a cursor has left, at most `n` of them. -/
def State.peekBytes (s : State) (id : ByteCur) (n : Nat) : Act (List Byte) := do
  let c ← s.liveByte id
  .ok (c.bytes (s.mem c.mem) (min n c.avail))

/-- How many bytes a cursor has left. -/
def State.bytesLeft (s : State) (id : ByteCur) : Act Nat := do
  let c ← s.liveByte id
  .ok c.avail

/-! ## Operand assembly -/

/-- `MVASSEMBLE(a, b)` (30_encoding.md R79, parameter P10): the biases are subtracted in the integers. -/
def assembleMv (axis : MvAxis) (a : BitVec 8) (b : BitVec 7) : MotionVector :=
  let u : Int := (a.toNat : Int) - 0x7f
  let v : Int := (b.toNat : Int) - 0x3f
  match axis with
  | .aIsX => { x := u, y := v }
  | .aIsY => { x := v, y := u }

/-- The delta-table address of index `i` of class `c` (42_a9ll_intra.md R156). -/
def deltaAddress (c i : Nat) : Nat := i + 2 ^ (c + 1) - 2

/-- `DT[k]` (42_a9ll_intra.md R156). -/
def State.delta (s : State) (k : Nat) : Act Half := do
  let dt ← s.rd .dt s.dt
  match dt[k]? with
  | some v => .ok v
  | none => .error (.fault (.outOfBounds .deltaTable))

/-- The mask bit of tile position `p` (42_a9ll_intra.md R148, parameter P8). -/
def State.maskBit (s : State) (p : Nat) : Act Bool := do
  let m ← s.rd .mask s.mask
  match s.cfg.maskBit[p]? with
  | some i => .ok (m.getLsbD i.val)
  | none => .error (.fault (.outOfBounds .maskBits))

/-- `OFFSET` of a direction (42_a9ll_intra.md R165). -/
def offsetOf : Dir → Int × Int
  | .up => (0, -1)
  | .left => (-1, 0)
  | .upLeft => (-1, -1)

/-- The predictor of pixel `(x, y)` (42_a9ll_intra.md R150-R152, 43_a9ll_inter.md R181, R183). -/
def State.predict (s : State) (pr : Predictor) (x y : Nat) : Act Half :=
  match pr with
  | .dir d => s.pred (x + (offsetOf d).1) (y + (offsetOf d).2)
  | .ref => do
    s.needRef x y 1 1
    .ok (s.refAt x y)
  | .refMv => do
    let mv ← s.rd .mv s.mv
    s.needRef (x + mv.x) (y + mv.y) 1 1
    .ok (s.refAt (x + mv.x) (y + mv.y))

end Sys2Proof.Machine
end

