-- ==== Sys2Proof/Machine/Readers.lean ====
section
/-! DEFINITION. Construction of the reader sets: `RS.A9LL`, `RS.W2D1`, `RS.W2D2` (41_readers.md R140-R144), with the
layouts of parameters P6, P13, P14 (30_encoding.md R72-R74). -/

namespace Sys2Proof.Machine

open Sys2Proof

/-- The region is well formed and lies inside `[lo, hi]` (41_readers.md R141). -/
def regionWithin (lo hi : Nat) (r : Region) : Bool :=
  decide (lo ≤ r.start) && decide (r.start ≤ r.stop) && decide (r.stop ≤ hi)

/-- Two regions share no byte (92_eei_decisions.md D36). -/
def regionDisjoint (a b : Region) : Bool :=
  decide (a.stop ≤ b.start) || decide (b.stop ≤ a.start) || a.start == a.stop || b.start == b.stop

/-- Every two regions of the list share no byte. -/
def disjointAll : List Region → Bool
  | [] => true
  | r :: rest => rest.all (regionDisjoint r) && disjointAll rest

/-- A bit cursor over a region (R126). -/
def bitCursorOver (r : Region) (mem : CurMem) : BitCursor :=
  { mem := mem, start := r.start, stop := r.stop, bitpos := 0 }

/-- A byte cursor over a region (R133). -/
def byteCursorOver (r : Region) (mem : CurMem) : ByteCursor :=
  { mem := mem, start := r.start, stop := r.stop, pos := r.start }

/-! ## A9LL -/

/-- TC0's layout (30_encoding.md R72): two stored offsets at the data start, `BIT1`, `BIT2`, and one byte cursor that is
all four logical ones. -/
def a9Tc0 (m : Memory) (dataStart dataEnd : Nat) : A9Regions :=
  let o1 := (Memory.u32 m dataStart).toNat
  let o2 := (Memory.u32 m (dataStart + 4)).toNat
  let none : Region := { start := dataEnd, stop := dataEnd }
  { offsets := [o1, o2]
    bit1 := { start := dataStart + 8, stop := o1 }
    bit2 := { start := o1, stop := o2 }
    byte0 := { start := o2, stop := dataEnd }
    byte1 := none
    byte2 := none
    byte3 := none
    map := { maskc := .p0, litc := .p0, tabc := .p0, edgelit := .p0 }
    valid := decide (dataStart + 8 ≤ o1) && decide (o1 ≤ o2) && decide (o2 ≤ dataEnd) }

/-- `P6.layout(P, header_size, data_end)` (30_encoding.md R72); the offsets are taken from the data start (log 8). -/
def State.a9Regions (s : State) : A9Regions :=
  match s.cfg.a9Layout with
  | .tc0 => a9Tc0 s.pkt s.hdr.dataStart s.hdr.dataEnd
  | .impl id => Config.a9LayoutFn id s.pkt s.len s.hdr.dataStart s.hdr.dataEnd

/-- The regions of the physical cursors of an A9LL reader set. -/
def a9All (g : A9Regions) : List Region := [g.bit1, g.bit2, g.byte0, g.byte1, g.byte2, g.byte3]

/-- R140 and R141: every stored offset lies in `[header_size + 8, L]`; every region lies inside
`[header_size, data_end]`; the regions are disjoint; the layout's own condition holds. -/
def a9Ok (g : A9Regions) (headerSize dataEnd len : Nat) : Bool :=
  g.offsets.all (fun o => decide (headerSize + 8 ≤ o) && decide (o ≤ len)) &&
  (a9All g).all (regionWithin headerSize dataEnd) && disjointAll (a9All g) && g.valid

/-- `RS.A9LL` (R141): build `BIT1`, `BIT2`, `MASKC`, `LITC`, `TABC`, `EDGELIT`, or raise `INVALID_DATA`.  That the offset
words fit (R140) is checked where they lie, at the data start (DESIGN CHOICE for an index-colour frame, log 8). -/
def State.buildA9LL (s : State) : Act State := do
  let hs ← s.rd .headerSize s.hdr.headerSize.toNat
  let de ← s.rd .dataEnd s.hdr.dataEnd
  require (decide (s.hdr.dataStart + 8 ≤ s.len)) .invalidData
  let g := s.a9Regions
  require (a9Ok g hs de s.len) .invalidData
  .ok (State.mark { s with
        bit1 := bitCursorOver g.bit1 .packet
        bit2 := bitCursorOver g.bit2 .packet
        a9 := { p0 := byteCursorOver g.byte0 .packet, p1 := byteCursorOver g.byte1 .packet,
                p2 := byteCursorOver g.byte2 .packet, p3 := byteCursorOver g.byte3 .packet }
        a9map := g.map } .rsA9LL)

/-! ## W2 depth 1 -/

/-- The regions of a depth-1 frame behind the 16-byte header at `h` (R142): table, index, literal.  The sums are
computed in the integers. -/
def w2Header (m : Memory) (h stop : Nat) (inBytes : Bool) : W2Regions :=
  let n := (Memory.u32 m h).toNat
  let il := (Memory.u32 m (h + 4)).toNat
  let ll := (Memory.u32 m (h + 8)).toNat
  let t0 := h + 16
  let i0 := t0 + (if inBytes then n else 4 * n)
  let l0 := i0 + il
  let l1 := l0 + ll
  { tab := { start := t0, stop := i0 }, idx := { start := i0, stop := l0 }, lit := { start := l0, stop := l1 },
    valid := decide (l1 ≤ stop) }

/-- Where P13 puts the 16-byte region header: `offset` bytes after the base in `P` (30_encoding.md R73), at `IBUF[0]` in the
nested pass (45_w2_depth2.md R233; DESIGN CHOICE where `offset` is not 0, log 16). -/
def w2HeaderAt (mem : CurMem) (b offset : Nat) : Nat :=
  match mem with
  | .packet => b + offset
  | .ibuf => b

/-- The least end that has room for the 16-byte region header.  In the nested pass the header is at `IBUF[0]` under every
P13 (45_w2_depth2.md R220, R233); in `P` an implementation places its header itself, and its own condition says whether it
fits. -/
def w2HeaderStop (rule : W2RegionRule) (mem : CurMem) (b : Nat) : Nat :=
  match rule, mem with
  | .header offset _, mem => w2HeaderAt mem b offset + 16
  | .impl _, .packet => 0
  | .impl _, .ibuf => b + 16

/-- `P13`'s regions over memory `mem`, base `b`, end `e`; `none` when the 16-byte header does not fit (R142). -/
def State.w2Regions (s : State) (mem : CurMem) (b e : Nat) : Option W2Regions :=
  if e < w2HeaderStop s.cfg.w2Layout.regions mem b then none
  else some (match s.cfg.w2Layout.regions with
    | .header offset inBytes => w2Header (s.mem mem) (w2HeaderAt mem b offset) e inBytes
    | .impl id => Config.w2LayoutFn id (s.mem mem) (s.memLen mem) b e)

/-- The regions of a depth-1 reader set. -/
def w2All (g : W2Regions) : List Region := [g.tab, g.idx, g.lit]

/-- The regions of a depth-1 frame lie inside `[b, e]` (R127, R142) and share no byte (R125, 92_eei_decisions.md D36), and
the layout's own condition holds. -/
def w2Ok (g : W2Regions) (b e : Nat) : Bool :=
  (w2All g).all (regionWithin b e) && disjointAll (w2All g) && g.valid

/-- `RS.W2D1` (R142): build `TAB`, `IDX`, `LIT` over memory `mem` from `b` to `e`, or raise `INVALID_DATA`. -/
def State.buildW2D1 (s : State) (mem : CurMem) (b e : Nat) : Act State := do
  s.needMem mem
  match s.w2Regions mem b e with
  | none => .error (.raise .invalidData)
  | some g => do
    require (w2Ok g b e) .invalidData
    .ok (State.mark { s with
          tab := byteCursorOver g.tab mem
          idx := byteCursorOver g.idx mem
          lit := byteCursorOver g.lit mem } .rsW2D1)

/-! ## W2 depth 2 -/

/-- The sample layout of `D2Layout.consecutive`: six u32 at `h`, then five regions one after another (log 2). -/
def d2Consecutive (m : Memory) (h dataEnd : Nat) : D2Regions :=
  let r0 := h + 24
  let r1 := r0 + (Memory.u32 m (h + 4)).toNat
  let r2 := r1 + (Memory.u32 m (h + 8)).toNat
  let r3 := r2 + (Memory.u32 m (h + 12)).toNat
  let r4 := r3 + (Memory.u32 m (h + 16)).toNat
  let r5 := r4 + (Memory.u32 m (h + 20)).toNat
  { size := (Memory.u32 m h).toNat
    bits := { start := r0, stop := r1 }
    byte0 := { start := r1, stop := r2 }
    byte1 := { start := r2, stop := r3 }
    byte2 := { start := r3, stop := r4 }
    byte3 := { start := r4, stop := r5 }
    valid := decide (r5 ≤ dataEnd) }

/-- `P14`'s size and regions (30_encoding.md R74); `none` when the sample layout's words do not fit. -/
def State.d2Regions (s : State) (d : D2Coding) : Option D2Regions :=
  match d.layout with
  | .consecutive =>
    if s.hdr.dataEnd < s.hdr.dataStart + 24 then none
    else some (d2Consecutive s.pkt s.hdr.dataStart s.hdr.dataEnd)
  | .impl id => some (Config.d2LayoutFn id s.pkt s.len s.hdr.dataStart s.hdr.dataEnd)

/-- The regions of the physical cursors of a depth-2 reader set. -/
def d2All (g : D2Regions) : List Region := [g.bits, g.byte0, g.byte1, g.byte2, g.byte3]

/-- Every depth-2 region lies inside `[header_size, data_end]` (R143) and no two share a byte (R125, 92_eei_decisions.md
D36), and the layout's own condition holds. -/
def d2Ok (g : D2Regions) (headerSize dataEnd : Nat) : Bool :=
  (d2All g).all (regionWithin headerSize dataEnd) && disjointAll (d2All g) && g.valid

/-- `RS.W2D2` (R143): build `D2B`, `D2L` and P14's further byte cursors, or raise `INVALID_DATA`; and `P14.size`
(45_w2_depth2.md R221). -/
def State.buildW2D2 (s : State) (d : D2Coding) : Act (Nat × State) := do
  let hs ← s.rd .headerSize s.hdr.headerSize.toNat
  let de ← s.rd .dataEnd s.hdr.dataEnd
  match s.d2Regions d with
  | none => .error (.raise .invalidData)
  | some g => do
    require (d2Ok g hs de) .invalidData
    .ok (g.size, State.mark { s with
          d2b := bitCursorOver g.bits .packet
          d2 := { p0 := byteCursorOver g.byte0 .packet, p1 := byteCursorOver g.byte1 .packet,
                  p2 := byteCursorOver g.byte2 .packet, p3 := byteCursorOver g.byte3 .packet } } .rsW2D2)

end Sys2Proof.Machine
end

