-- ==== Sys2Proof/Machine/Sequence.lean ====
section
/-! DEFINITION. The sequencer (10_state.md R31): where each loop of the rules goes next.  Tiles, macroblocks, sub-blocks,
cells and pixels go in raster order (92_eei_decisions.md D11, 70_reset_and_hazards.md R291). -/

namespace Sys2Proof.Machine

open Sys2Proof

/-! ## The header front end (40_header.md R118) -/

/-- The step after `k`, in the order of R118; a step that is "taken when" a condition holds is passed over otherwise. -/
def hdrNext (h : Header) : HdrStep → Stage
  | .len => .hdr .magic
  | .magic => .hdr .version
  | .version => .hdr .rawType
  | .rawType => .hdr .flagsAB
  | .flagsAB => .hdr .dims
  | .dims => .hdr .flagsCD
  | .flagsCD => .hdr .alphaPresent
  | .alphaPresent => if h.alphaField then .hdr .alpha else if h.animated then .hdr .anim else .hdr .first
  | .alpha => if h.animated then .hdr .anim else .hdr .first
  | .anim => .hdr .first
  | .first => if h.alphaField && !h.legacy then .hdr .scale else .hdr .size
  | .scale => .hdr .size
  | .size => if h.indexColor then .hdr .index else if h.alphaField then .hdr .xval else .hdr .dataEnd
  | .index => if h.alphaField then .hdr .xval else .hdr .dataEnd
  | .xval => .hdr .dataEnd
  | .dataEnd => .hdr .qpGate
  | .qpGate => .orchestrate

/-- The registers that decide the step after `k`. -/
def hdrNeeds : HdrStep → List Reg
  | .alphaPresent => [.alphaField, .flagsAB]
  | .alpha => [.flagsAB]
  | .first => [.alphaField, .version]
  | .size => [.flagsCD, .alphaField]
  | .index => [.alphaField]
  | _ => []

/-- Each of these registers has been written by this DECODE (R39). -/
def State.needRegs (s : State) : List Reg → Act Unit
  | [] => .ok ()
  | r :: rest => do
    s.rd r ()
    s.needRegs rest

/-- Go on to the step after `k`. -/
def State.hdrDone (s : State) (k : HdrStep) : Act State := do
  s.needRegs (hdrNeeds k)
  .ok (s.goto (hdrNext s.hdr k))

/-! ## Tiles and macroblocks -/

/-- Macroblocks in a row (43_a9ll_inter.md R170): `ceil(W / 16)`. -/
def mbAcross (w : Nat) : Nat := (w + 15) / 16

/-- The origin of macroblock `t` in raster order. -/
def mbOrigin (w t : Nat) : Nat × Nat := (16 * (t % mbAcross w), 16 * (t / mbAcross w))

/-- The origin of intra tile `t` in raster order (42_a9ll_intra.md R145). -/
def tileOrigin (w t : Nat) : Nat × Nat := (4 * (t % (w / 4)), 4 * (t / (w / 4)))

/-- The origin of sub-block or cell `sb` of macroblock `t` (00_scope.md R12). -/
def subOrigin (w t sb : Nat) : Nat × Nat := ((mbOrigin w t).1 + 4 * (sb % 4), (mbOrigin w t).2 + 4 * (sb / 4))

/-- The origin of the tile or cell the sequencer stands in. -/
def State.origin (s : State) (k : TileKind) : Act (Nat × Nat) := do
  let (w, _) ← s.dims
  match k with
  | .frame => .ok (tileOrigin w s.seq.t)
  | .within _ => .ok (subOrigin w s.seq.t s.seq.s)

/-- The macroblock at `(x0, y0)` is full (43_a9ll_inter.md R170). -/
def fullMb (w h : Nat) (o : Nat × Nat) : Bool := decide (o.1 + 16 ≤ w) && decide (o.2 + 16 ≤ h)

/-- A cell with its origin inside the image (43_a9ll_inter.md R187). -/
def cellVisible (w h : Nat) (o : Nat × Nat) : Bool := decide (o.1 < w) && decide (o.2 < h)

/-- A cell that lies fully inside the image (R187). -/
def cellWhole (w h : Nat) (o : Nat × Nat) : Bool := decide (o.1 + 4 ≤ w) && decide (o.2 + 4 ≤ h)

/-- The intra tile loop (42_a9ll_intra.md R145): the next tile, or completion after the last one.  R145 writes `SEQ.t` only:
`SEQ.s` and `SEQ.p` become 0 with it (DESIGN CHOICE, log 19). -/
def State.nextTile (s : State) : Act State := do
  let (w, h) ← s.dims
  if s.seq.t + 1 < (w / 4) * (h / 4) then
    .ok { s with seq := { s.seq with t := s.seq.t + 1, s := 0, p := 0, stage := .tile } }
  else .ok s.gotoComplete

/-- The macroblock loop (43_a9ll_inter.md R170): the next macroblock, or completion after the last one.  R170
writes `SEQ.t` only: `SEQ.s` and `SEQ.p` become 0 with it (DESIGN CHOICE, log 19).  `MV`, undefined outside a macroblock that
wrote it (10_state.md R32), keeps the last vector and stays marked as written (DESIGN CHOICE, log 18). -/
def State.nextMb (s : State) : Act State := do
  let (w, h) ← s.dims
  if s.seq.t + 1 < mbAcross w * mbAcross h then
    .ok { s with seq := { s.seq with t := s.seq.t + 1, s := 0, p := 0, stage := .mb } }
  else .ok s.gotoComplete

/-- The sub-block after `sb`: of a full macroblock the next one (R176, R177), of an edge macroblock the next visible cell
(R187).  R187 writes no field of `SEQ`: that `SEQ.s` counts the cells, as `4*cy + cx`, and passes over those that are not
visible is the model's choice (DESIGN CHOICE, log 19). -/
def subAfter (k : SubKind) (w h t sb : Nat) : Option Nat :=
  match k with
  | .cells => (List.range 16).find? fun i => decide (sb < i) && cellVisible w h (subOrigin w t i)
  | _ => if sb + 1 < 16 then some (sb + 1) else none

/-- The sub-block loop: the next sub-block or cell in `SEQ.s`, or the next macroblock.  `SEQ.p` becomes 0 before the tile's own
loop writes it (DESIGN CHOICE, log 19). -/
def State.nextSub (s : State) (k : SubKind) : Act State := do
  let (w, h) ← s.dims
  match subAfter k w h s.seq.t s.seq.s with
  | some i => .ok { s with seq := { s.seq with s := i, p := 0, stage := .sub k } }
  | none => s.nextMb

/-- After a whole tile. -/
def State.tileDone (s : State) : TileKind → Act State
  | .frame => s.nextTile
  | .within k => s.nextSub k

/-- After pixel `p` of a predicted tile (42_a9ll_intra.md R149). -/
def State.pixelDone (s : State) (k : TileKind) : Act State :=
  if s.seq.p < 15 then .ok { s with seq := { s.seq with p := s.seq.p + 1 } }
  else s.tileDone k

/-! ## W2 -/

/-- `W2.STEP`'s tests (44_w2_depth1.md R203): the frame is full, or the index stream has ended at a symbol boundary: the
frame is complete (R210); else an index value is read next. -/
def State.w2Next (s : State) : Act State := do
  let k ← s.rd .pixelCount s.k
  let n ← s.rd .pixelCount s.n
  if k = n then .ok s.gotoComplete
  else do
    let left ← s.bytesLeft .idx
    if left = 0 then .ok s.gotoComplete else .ok (s.goto .w2Index)

/-- `W2.D1(M, b, e)` up to its main loop (44_w2_depth1.md R200). -/
def State.startW2D1 (s : State) (mem : CurMem) (b e : Nat) : Act State := do
  let s ← s.buildW2D1 mem b e
  let (w, h) ← s.dims
  (State.mark { s with k := 0, n := w * h } .pixelCount).w2Next

/-- The strip loop of `W2.D2` (45_w2_depth2.md R220): a later strip while at least 16 bytes remain, then the tail, then
the nested pass over `IBUF` (R233). -/
def State.d2Next (s : State) : Act State := do
  let size ← s.rd .size s.size
  let ipos ← s.rd .ipos s.ipos
  if ipos + 16 ≤ size then .ok (s.goto .d2Sel)
  else if ipos < size then .ok (s.goto .d2Tail)
  else s.startW2D1 .ibuf 0 size

/-- How many values a strip has: six in the first (R222), eight in a `D2.STRIP2` (R229). -/
def stripValues : Strip → Nat
  | .first => 6
  | .later _ => 8

/-- Where value `j` of a strip starts: with a distance update before every other value (R222, R224, R229). -/
def stripStage (strip : Strip) (j : Nat) : Stage := if j % 2 = 0 then .d2Dist strip j else .d2Value strip j

/-- After value `j` of a strip. -/
def State.valueDone (s : State) (strip : Strip) (j : Nat) : Act State :=
  if j + 1 < stripValues strip then .ok (s.goto (stripStage strip (j + 1))) else s.d2Next

end Sys2Proof.Machine
end

