-- ==== Sys2Proof/Machine/Depth2.lean ====
section
/-! DEFINITION. The W2 depth-2 symbols (45_w2_depth2.md R220-R234).  Every selector, kind code, cursor and table is
parameter P14; without a value for it a depth-2 symbol is refused (93_implementation_defined.md). -/

namespace Sys2Proof.Machine

open Sys2Proof Host

/-! ## Shared operations -/

/-- The sequencer stands at `stage`, and P14 has a value. -/
def State.d2Here (s : State) (stage : Stage) : Act D2Coding := do
  expect (decide (s.seq.stage = stage))
  s.coding

/-- R225: `DIST >= 1` and `IPOS - DIST >= 0`, or `INVALID_DATA`. -/
def State.needSource (s : State) : Act (Nat × Nat) := do
  let ipos ← s.rd .ipos s.ipos
  let dist ← s.rd .dist s.dist
  require (decide (1 ≤ dist) && decide (dist ≤ ipos)) .invalidData
  .ok (ipos, dist)

/-- The forward byte-by-byte copy (R228): `IBUF[a] <- IBUF[a - DIST]`, `n` times at rising `a`. -/
def State.copyBack (s : State) (dist : Nat) : Nat → Nat → Act State
  | _, 0 => .ok s
  | a, n + 1 => do
    let b ← s.getIbuf (a - dist)
    let s ← s.putIbuf a b
    s.copyBack dist (a + 1) n

/-- `P14.xor_base` (R223).  The base at the distance is checked like a back-reference, and with `DIST = 1`, where its second
byte would be `IBUF[IPOS]`, not yet written, it repeats the first one (DESIGN CHOICE, log 13). -/
def State.xorBase (s : State) (d : D2Coding) : Act Half :=
  match d.xorBase with
  | .const v => .ok v
  | .previous => do
    let ipos ← s.rd .ipos s.ipos
    require (decide (2 ≤ ipos)) .invalidData
    let b0 ← s.getIbuf (ipos - 2)
    let b1 ← s.getIbuf (ipos - 1)
    .ok (le16 b0 b1)
  | .atDistance => do
    let (ipos, dist) ← s.needSource
    let b0 ← s.getIbuf (ipos - dist)
    let b1 ← if dist = 1 then .ok b0 else s.getIbuf (ipos + 1 - dist)
    .ok (le16 b0 b1)
  | .impl id => do
    let ipos ← s.rd .ipos s.ipos
    let dist ← s.rd .dist s.dist
    let m ← s.rd .ibuf s.ibuf
    .ok (Config.xorBaseFn id m ipos dist)

/-- Write bytes at `IPOS` and advance it. -/
def State.appendIbuf (s : State) (bytes : List Byte) : Act State := do
  let ipos ← s.rd .ipos s.ipos
  let s ← s.putIbufBytes ipos bytes
  .ok { s with ipos := ipos + bytes.length }

/-- Copy `n` bytes from the current distance to `IPOS` and advance it (R223 `BACKREF`, R228; log 13). -/
def State.appendBack (s : State) (n : Nat) : Act State := do
  let (ipos, dist) ← s.needSource
  let s ← s.copyBack dist ipos n
  .ok { s with ipos := ipos + n }

/-- The kind code of value `j` of a strip: `P14.kind1(j)`, or `P14.kind2(j, m)` by the value's mask bit (R229, R230). -/
def kindCode (d : D2Coding) (strip : Strip) (j : Nat) : PrefixCode ValueKind :=
  match strip with
  | .first => d.kind1.getD j (.leaf .lit)
  | .later m =>
    let codes := d.kind2.getD j (.leaf .lit, .leaf .lit)
    if m.getLsbD (d.maskBit.getD j 0).val then codes.2 else codes.1

/-! ## Meanings -/

/-- `D2.STRIP1` (R222): the 32-bit literal; six values follow. -/
def execD2Strip1 (q : Word) (s : State) : Outcome State Fault Refusal :=
  finish s (do
    let _ ← s.d2Here .d2Strip1
    let s ← s.skipBytes .d2l 4
    let s ← s.putIbufBytes 0 (bytes32 q)
    let s := State.mark { s with ipos := 4 } .ipos
    .ok (s.goto (stripStage .first 0)))

/-- `D2.DIST` (R224): the flag bit, and the update it selects.  `DIST` counts bytes, as R224 states. -/
def execD2Dist (flag : Bool) (update : DistUpdate) (s : State) : Outcome State Fault Refusal :=
  finish s (match s.seq.stage with
    | .d2Dist strip j => do
      let d ← s.coding
      let op := if flag then d.distIfSet else d.distIfClear
      let s ← s.skipBits .d2b 1
      let s ← match op, update with
        | .keep, .keep => .ok s
        | .byte, .byte v => do
          let s ← s.skipBytes .d2dist 1
          .ok (State.mark { s with dist := v.toNat } .dist)
        | .half, .half v => do
          let s ← s.skipBytes .d2dist 2
          .ok (State.mark { s with dist := v.toNat } .dist)
        | _, _ => .error (.fault .outOfSequence)
      .ok (s.goto (.d2Value strip j))
    | _ => .error (.fault .outOfSequence))

/-- `D2.VALUE` (R223): the two bytes at the distance, a table entry XORed with P14's base, or a literal. -/
def execD2Value (code : List Bool) (payload : D2Payload) (s : State) : Outcome State Fault Refusal :=
  finish s (match s.seq.stage with
    | .d2Value strip j => do
      let d ← s.coding
      let tree := kindCode d strip j
      let s ← s.skipBits .d2b code.length
      let s ← match payload with
        | .backref => do
          expect (tree.spells code .backref)
          s.appendBack 2
        | .xor key => do
          expect (tree.spells code .xor)
          let s ← s.skipBytes .d2key 1
          match d.xtab[key.toNat]? with
          | none => .error (.raise .invalidData)
          | some entry => do
            let base ← s.xorBase d
            s.appendIbuf (bytes16 (base ^^^ entry))
        | .lit v => do
          expect (tree.spells code .lit)
          let s ← s.skipBytes .d2l 2
          s.appendIbuf (bytes16 v)
      s.valueDone strip j
    | _ => .error (.fault .outOfSequence))

/-- `D2.STRIPSEL` (R226). -/
def execD2StripSel (code : List Bool) (kind : StripKind) (s : State) : Outcome State Fault Refusal :=
  finish s (do
    let d ← s.d2Here .d2Sel
    expect (d.selector.spells code (some kind))
    let s ← s.skipBits .d2b code.length
    .ok (s.goto (.d2Body kind)))

/-- `D2.VERB` (R227): 16 literal bytes. -/
def execD2Verb (bytes : List Byte) (s : State) : Outcome State Fault Refusal :=
  finish s (do
    let _ ← s.d2Here (.d2Body .verb)
    expect (Instr.wf (.d2Verb bytes))
    let s ← s.skipBytes .d2l 16
    let s ← s.appendIbuf bytes
    s.d2Next)

/-- `D2.BACK` (R228): 16 bytes from the current distance. -/
def execD2Back (s : State) : Outcome State Fault Refusal :=
  finish s (do
    let _ ← s.d2Here (.d2Body .back)
    let s ← s.appendBack 16
    s.d2Next)

/-- `D2.STRIP2` (R229, R230): the presence mask; eight values follow. -/
def execD2Strip2 (fromBits : Bool) (mask : Byte) (s : State) : Outcome State Fault Refusal :=
  finish s (do
    let d ← s.d2Here (.d2Body .strip2)
    expect (d.maskInBits == fromBits)
    let s ← if fromBits then s.skipBits .d2b 8 else s.skipBytes .d2mask 1
    .ok (s.goto (stripStage (.later mask) 0)))

/-- `D2.TAIL` (R231, R232): the remaining bytes, verbatim. -/
def execD2Tail (bytes : List Byte) (s : State) : Outcome State Fault Refusal :=
  finish s (do
    let _ ← s.d2Here .d2Tail
    let size ← s.rd .size s.size
    let ipos ← s.rd .ipos s.ipos
    expect (bytes.length == size - ipos && Instr.wf (.d2Tail bytes))
    let s ← s.skipBytes .d2l bytes.length
    let s ← s.appendIbuf bytes
    s.d2Next)

end Sys2Proof.Machine
end

