-- ==== Sys2Proof/Machine/Flags.lean ====
section
/-! DEFINITION. The flag computations.  QMDEC has no condition flags (00_scope.md R13); its flag state is the header's
flag fields (10_state.md R37), which parameter P1 places in the flag bytes (40_header.md R104, R106). -/

namespace Sys2Proof.Machine

open Sys2Proof

/-- The field at these bit numbers of a word, most significant first (P1). -/
def fieldOf {n : Nat} (bits : List (Fin n)) (v : BitVec n) : Nat :=
  bits.foldl (fun acc i => shiftIn acc (v.getLsbD i.val)) 0

/-- The flag at this bit number. -/
def flagOf {n : Nat} (bit : Fin n) (v : BitVec n) : Bool := v.getLsbD bit.val

/-- Two flag bytes as P1 numbers their bits: the first byte is bits 0-7. -/
def flagPair (first second : Byte) : Half := second ++ first

/-- `P1.decodeAB`, and the legacy rule for `dynamic_table` (40_header.md R104). -/
def decodeAB (cfg : Config) (h : Header) (a b : Byte) : Header :=
  let l := if h.legacy then cfg.abLegacy else cfg.abModern
  let v := flagPair a b
  { h with
    flagsA := a
    flagsB := b
    transparency := flagOf l.transparency v
    animated := flagOf l.animated v
    encoderMode := BitVec.ofNat 16 (fieldOf l.encoderMode v)
    depth := BitVec.ofNat 16 (fieldOf l.depth v)
    dynamicTable := !h.legacy && flagOf l.dynamicTable v
    extraException := flagOf l.extraException v }

/-- `P1.decodeCD` (40_header.md R106); `android_support` is `gray` (10_state.md R37). -/
def decodeCD (cfg : Config) (h : Header) (c d : Byte) : Header :=
  let l := if h.legacy then cfg.cdLegacy else cfg.cdModern
  let v := flagPair c d
  { h with
    flagsC := c
    flagsD := d
    gray := flagOf l.gray v
    indexColor := flagOf l.indexColor v
    premultiplied := flagOf l.premultiplied v
    isOpaque := flagOf l.isOpaque v
    ninePatch := flagOf l.ninePatch v
    notAlphaComposited := flagOf l.notAlphaComposited v }

/-- `P9.gate(HDR, P)` (40_header.md R116): "qp==0 or explicit bit". -/
def gateOf (s : State) : Bool :=
  match s.cfg.qpGate with
  | .fields qp explicit =>
    let v : Word := flagPair s.hdr.flagsC s.hdr.flagsD ++ flagPair s.hdr.flagsA s.hdr.flagsB
    fieldOf qp v == 0 || explicit.any fun i => flagOf i v
  | .impl id => Config.qpGateFn id s.pkt s.len

/-- `P12.first(HDR)` (40_header.md R117). -/
def firstOf (s : State) : Bool :=
  match s.cfg.firstFrame with
  | .currentIsZero => s.hdr.currentFrame == 0
  | .impl id => Config.firstFrameFn id s.pkt s.len

/-- `P5(version)` and the table it selects (42_a9ll_intra.md R160). -/
def constTable (cfg : Config) (version : Byte) : List Half :=
  let second :=
    match cfg.deltaSelect with
    | .above t => decide (t < version)
    | .oneOf vs => vs.contains version
  if second then cfg.delta1 else cfg.delta0

end Sys2Proof.Machine
end

