-- ==== Sys2Proof/Machine/Header.lean ====
section
/-! DEFINITION. The header front end (40_header.md R100-R118): one meaning for each HDR row.  The operands are the bytes of
`P` at the row's fixed offsets. -/

namespace Sys2Proof.Machine

open Sys2Proof Host

/-- The front end stands at step `k` (R118). -/
def State.expectHdr (s : State) (k : HdrStep) : Act Unit := expect (decide (s.seq.stage = .hdr k))

/-- `need(o, n)` (R113). -/
def State.needHdr (s : State) (o n : Nat) : Act Unit := require (decide (o + n ≤ s.len)) .invalidData

/-- `HDR.LEN` (R100): at least 12 bytes. -/
def execHdrLen (s : State) : Outcome State Fault Refusal :=
  finish s (do
    s.expectHdr .len
    require (decide (12 ≤ s.len)) .invalidData
    s.hdrDone .len)

/-- `HDR.MAGIC` (R101): `P[0] = 0x51`, `P[1] = 0x4D`. -/
def execHdrMagic (s : State) : Outcome State Fault Refusal :=
  finish s (do
    s.expectHdr .magic
    s.within .packet 2
    require (Store.get s.pkt 0 == 0x51 && Store.get s.pkt 1 == 0x4D) .invalidData
    s.hdrDone .magic)

/-- `HDR.VERSION` (R102): legacy up to and including 0x0B. -/
def execHdrVersion (version : Byte) (s : State) : Outcome State Fault Refusal :=
  finish s (do
    s.expectHdr .version
    (s.setHdr .version { s.hdr with version := version, legacy := decide (version ≤ 0x0B) }).hdrDone .version)

/-- `HDR.RAWTYPE` (R103): a raw type outside P2 raises `UNSUPPORTED`. -/
def execHdrRawType (rawType : Byte) (s : State) : Outcome State Fault Refusal :=
  finish s (do
    s.expectHdr .rawType
    require (rawType == 0 || rawType == s.cfg.rawType2) .unsupported
    (s.setHdr .rawType { s.hdr with rawType := rawType }).hdrDone .rawType)

/-- `HDR.FLAGS_AB` (R104). -/
def execHdrFlagsAB (a b : Byte) (s : State) : Outcome State Fault Refusal :=
  finish s (do
    s.expectHdr .flagsAB
    s.needRegs [.version]
    (s.setHdr .flagsAB (decodeAB s.cfg s.hdr a b)).hdrDone .flagsAB)

/-- `HDR.DIMS` (R105): a zero dimension raises `INVALID_DATA`. -/
def execHdrDims (w h : Half) (s : State) : Outcome State Fault Refusal :=
  finish s (do
    s.expectHdr .dims
    require (w != 0 && h != 0) .invalidData
    (s.setHdr .dims { s.hdr with w := w, h := h }).hdrDone .dims)

/-- `HDR.FLAGS_CD` (R106). -/
def execHdrFlagsCD (c d : Byte) (s : State) : Outcome State Fault Refusal :=
  finish s (do
    s.expectHdr .flagsCD
    s.needRegs [.version]
    (s.setHdr .flagsCD (decodeCD s.cfg s.hdr c d)).hdrDone .flagsCD)

/-- `HDR.ALPHA_PRESENT` (R107). -/
def execHdrAlphaPresent (s : State) : Outcome State Fault Refusal :=
  finish s (do
    s.expectHdr .alphaPresent
    s.needRegs [.flagsAB]
    (s.setHdr .alphaField { s.hdr with alphaField := s.hdr.transparency || s.hdr.animated }).hdrDone .alphaPresent)

/-- `HDR.ALPHA_LEGACY` (R108): 32 bits, never scaled. -/
def execHdrAlphaLegacy (raw : Word) (s : State) : Outcome State Fault Refusal :=
  finish s (do
    s.expectHdr .alpha
    s.needRegs [.alphaField, .version]
    expect (s.hdr.alphaField && s.hdr.legacy)
    s.needHdr 12 4
    let s := s.setHdr .alphaRaw { s.hdr with alphaRaw := raw }
    (s.setHdr .alphaBytes { s.hdr with alphaBytes := raw }).hdrDone .alpha)

/-- The read part of `HDR.ALPHA_MODERN` (R109): 16 bits, the mode byte, a pad that is ignored. -/
def State.readAlphaModern (s : State) (raw : Half) (mode : Byte) : Act State := do
  s.needRegs [.alphaField, .version]
  expect (s.hdr.alphaField && !s.hdr.legacy)
  s.needHdr 12 4
  (s.setHdr .alphaRaw { s.hdr with alphaRaw := raw.setWidth 32, alphaMode := mode }).hdrDone .alpha

/-- The scaling part of `HDR.ALPHA_MODERN` (R109): times 4, but for a later animation frame. -/
def State.scaleAlphaModern (s : State) : Act State := do
  s.needRegs [.alphaRaw, .flagsAB]
  let later ← if s.hdr.animated then s.rd .isFirst (!s.hdr.isFirst) else .ok false
  (s.setHdr .alphaBytes
    { s.hdr with alphaBytes := if later then s.hdr.alphaRaw else 4 * s.hdr.alphaRaw }).hdrDone .scale

/-- `HDR.ALPHA_MODERN` (R109), which R118 runs in two parts: at the alpha field, and after `HDR.FIRST`. -/
def execHdrAlphaModern (raw : Half) (mode _pad : Byte) (s : State) : Outcome State Fault Refusal :=
  finish s (match s.seq.stage with
    | .hdr .alpha => s.readAlphaModern raw mode
    | .hdr .scale => s.scaleAlphaModern
    | _ => .error (.fault .outOfSequence))

/-- `HDR.ANIM` (R110). -/
def execHdrAnim (total current delay : Half) (noRepeat _pad : Byte) (s : State) : Outcome State Fault Refusal :=
  finish s (do
    s.expectHdr .anim
    s.needRegs [.flagsAB]
    expect s.hdr.animated
    s.needHdr 16 8
    (s.setHdr .anim { s.hdr with
      totalFrames := total, currentFrame := current, delayMs := delay, noRepeat := noRepeat }).hdrDone .anim)

/-- `HDR.INDEX` (R111): the colour count, and where the data region then starts (P15, log 8). -/
def execHdrIndex (pad : Option Word) (colorCount : Word) (s : State) : Outcome State Fault Refusal :=
  finish s (do
    s.expectHdr .index
    s.needRegs [.flagsCD, .headerSize]
    expect (s.hdr.indexColor && pad.isSome == s.hdr.ninePatch)
    let o := s.hdr.headerSize.toNat + (if s.hdr.ninePatch then 4 else 0)
    s.needHdr o 4
    (s.setHdr .colorCount { s.hdr with
      colorCount := colorCount
      dataStart := if s.cfg.indexColor.dataAfterWords then o + 4 else s.hdr.headerSize.toNat }).hdrDone .index)

/-- `HDR.SIZE` (R112): 12, 16 or 24. -/
def execHdrSize (s : State) : Outcome State Fault Refusal :=
  finish s (do
    s.expectHdr .size
    s.needRegs [.alphaField, .flagsAB]
    let size : BitVec 5 := 12 + (if s.hdr.alphaField then 4 else 0) + (if s.hdr.animated then 8 else 0)
    (s.setHdr .headerSize { s.hdr with headerSize := size, dataStart := size.toNat }).hdrDone .size)

/-- `HDR.XVAL` (R114): `header_size + alpha_bytes <= L`. -/
def execHdrXval (s : State) : Outcome State Fault Refusal :=
  finish s (do
    s.expectHdr .xval
    s.needRegs [.alphaField, .headerSize, .alphaBytes]
    expect s.hdr.alphaField
    require (decide (s.hdr.headerSize.toNat + s.hdr.alphaBytes.toNat ≤ s.len)) .invalidData
    s.hdrDone .xval)

/-- `HDR.DATAEND` (R115). -/
def execHdrDataEnd (s : State) : Outcome State Fault Refusal :=
  finish s (do
    s.expectHdr .dataEnd
    s.needRegs [.alphaField, .headerSize]
    let dataEnd ←
      if s.hdr.alphaField then s.rd .alphaBytes (s.hdr.headerSize.toNat + s.hdr.alphaBytes.toNat) else .ok s.len
    (s.setHdr .dataEnd { s.hdr with dataEnd := dataEnd }).hdrDone .dataEnd)

/-- `HDR.QPGATE` (R116). -/
def execHdrQpGate (s : State) : Outcome State Fault Refusal :=
  finish s (do
    s.expectHdr .qpGate
    s.needRegs [.flagsAB, .flagsCD]
    (s.setHdr .qpGate { s.hdr with qpGate := gateOf s }).hdrDone .qpGate)

/-- `HDR.FIRST` (R117): meaningful, and written, only for an animated frame (log 11). -/
def execHdrFirst (s : State) : Outcome State Fault Refusal :=
  finish s (do
    s.expectHdr .first
    s.needRegs [.flagsAB]
    if s.hdr.animated then do
      s.needRegs [.anim]
      (s.setHdr .isFirst { s.hdr with isFirst := firstOf s }).hdrDone .first
    else s.hdrDone .first)

end Sys2Proof.Machine
end

