-- ==== Sys2Proof/Machine/Intra.lean ====
section
/-! DEFINITION. A9LL intra tiles, pixels and delta tables (42_a9ll_intra.md R145-R165).  The tile operations are also
those of the inter decoder's directional and edge sub-blocks (43_a9ll_inter.md R179, R180, R185). -/

namespace Sys2Proof.Machine

open Sys2Proof Host

/-! ## Shared operations -/

/-- `PREDTILE` up to its first pixel (R148, R149): the mask is read and the pixel loop starts at position 0. -/
def State.openTile (s : State) (pr : Predictor) (k : TileKind) (mask : Half) : Act State := do
  let s ← s.skipBytes .maskc 2
  let s := State.mark { s with mask := mask } .mask
  .ok { s with seq := { s.seq with p := 0, stage := .pixel pr k } }

/-- `EDGE` (R153): the column to the tile's left is replicated; at the image's left edge nothing is written. -/
def State.edgeTile (s : State) (k : TileKind) : Act State := do
  let (x0, y0) ← s.origin k
  let s ← if x0 = 0 then .ok s else s.fillRect x0 y0 4 4 fun _ y => s.frame.at (x0 - 1) y
  s.tileDone k

/-- The place of the pixel symbol that is next (R149): its coordinates, predictor and tile, once the sequencer stands at a
pixel whose mask bit is `set`. -/
def State.pixelHere (s : State) (set : Bool) : Act (Nat × Nat × Predictor × TileKind) :=
  match s.seq.stage with
  | .pixel pr k => do
    let bit ← s.maskBit s.seq.p
    expect (bit == set)
    let (x0, y0) ← s.origin k
    .ok (x0 + s.seq.p % 4, y0 + s.seq.p / 4, pr, k)
  | _ => .error (.fault .outOfSequence)

/-- `PIX.RES<c>` (R155, R156, R158): the predictor plus the table's delta, mod 2^16. -/
def State.residual (s : State) (c i : Nat) : Act State := do
  let (x, y, pr, k) ← s.pixelHere false
  let s ← s.skipBits .bit2 3
  let s ← s.skipBits .bit1 (c + 1)
  let v ← s.predict pr x y
  let d ← s.delta (deltaAddress c i)
  let s ← s.putPixel x y (v + d)
  s.pixelDone k

/-! ## `TILE2` -/

/-- A `TILE2` symbol of a directional mode (R146, R150-R152). -/
def State.dirTile2 (s : State) (d : Dir) (mask : Half) : Act State := do
  expect (decide (s.seq.stage = .tile))
  let s ← s.skipBits .bit1 2
  s.openTile (.dir d) .frame mask

/-- `TILE2.DIR0` (R150). -/
def execTile2Dir0 (mask : Half) (s : State) : Outcome State Fault Refusal :=
  finish s (s.dirTile2 s.cfg.dirMap.mode0 mask)

/-- `TILE2.DIR1` (R151). -/
def execTile2Dir1 (mask : Half) (s : State) : Outcome State Fault Refusal :=
  finish s (s.dirTile2 s.cfg.dirMap.mode1 mask)

/-- `TILE2.DIR2` (R152). -/
def execTile2Dir2 (mask : Half) (s : State) : Outcome State Fault Refusal :=
  finish s (s.dirTile2 s.cfg.dirMap.mode2 mask)

/-- `TILE2.EDGE` (R153). -/
def execTile2Edge (s : State) : Outcome State Fault Refusal :=
  finish s (do
    expect (decide (s.seq.stage = .tile))
    let s ← s.skipBits .bit1 2
    s.edgeTile .frame)

/-! ## Pixels -/

/-- `PIX.COPY` (R154): the predictor's value. -/
def execPixCopy (s : State) : Outcome State Fault Refusal :=
  finish s (do
    let (x, y, pr, k) ← s.pixelHere true
    let v ← s.predict pr x y
    let s ← s.putPixel x y v
    s.pixelDone k)

/-- `PIX.RES0` (R156). -/
def execPixRes0 (i : BitVec 1) (s : State) : Outcome State Fault Refusal := finish s (s.residual 0 i.toNat)

/-- `PIX.RES1` (R156). -/
def execPixRes1 (i : BitVec 2) (s : State) : Outcome State Fault Refusal := finish s (s.residual 1 i.toNat)

/-- `PIX.RES2` (R156). -/
def execPixRes2 (i : BitVec 3) (s : State) : Outcome State Fault Refusal := finish s (s.residual 2 i.toNat)

/-- `PIX.RES3` (R156). -/
def execPixRes3 (i : BitVec 4) (s : State) : Outcome State Fault Refusal := finish s (s.residual 3 i.toNat)

/-- `PIX.RES4` (R156). -/
def execPixRes4 (i : BitVec 5) (s : State) : Outcome State Fault Refusal := finish s (s.residual 4 i.toNat)

/-- `PIX.RES5` (R156). -/
def execPixRes5 (i : BitVec 6) (s : State) : Outcome State Fault Refusal := finish s (s.residual 5 i.toNat)

/-- `PIX.RES6` (R156). -/
def execPixRes6 (i : BitVec 7) (s : State) : Outcome State Fault Refusal := finish s (s.residual 6 i.toNat)

/-- `PIX.LIT` (R157): the literal; the predictor is not used. -/
def execPixLit (lit : Half) (s : State) : Outcome State Fault Refusal :=
  finish s (do
    let (x, y, _, k) ← s.pixelHere false
    let s ← s.skipBits .bit2 3
    let s ← s.skipBytes .litc 2
    let s ← s.putPixel x y lit
    s.pixelDone k)

/-! ## Delta tables -/

/-- The frame is one of whole tiles (R145). -/
def wholeTiles (w h : Nat) : Bool := decide (w % 4 = 0) && decide (h % 4 = 0)

/-- What follows the table (R162): the first macroblock or tile of the frame, or P19 for an intra frame of partial tiles
(R145, R163). -/
def afterTable (u : SeqUnit) (w h : Nat) : Stage :=
  if u = .a9llInter then .mb else if wholeTiles w h then .tile else .partialFrame

/-- The table is there, and the first tile or macroblock of the frame is next (R162). -/
def State.tableDone (s : State) (dt : List Half) : Act State := do
  let (w, h) ← s.dims
  .ok ((State.mark { s with dt := dt } .dt).goto (afterTable s.seq.unit w h))

/-- The entry of a dynamic table (R161): a non-zero sign byte keeps the magnitude, a zero one negates it. -/
def dynamicEntry (sign : Byte) (mag : Half) : Half := if sign = 0 then -mag else mag

/-- The dynamic table (R161): pair 0 is discarded. -/
def dynamicTable (signs : List Byte) (mags : List Half) : List Half :=
  List.zipWith dynamicEntry (signs.drop 1) (mags.drop 1)

/-- `DTAB` (R161). -/
def execDtab (signs : List Byte) (mags : List Half) (s : State) : Outcome State Fault Refusal :=
  finish s (do
    expect (decide (s.seq.stage = .table) && Instr.wf (.dtab signs mags))
    s.needRegs [.flagsAB]
    expect s.hdr.dynamicTable
    let s ← s.skipBytes .tabc 512
    let s ← s.skipBytes .tabc 1024
    s.tableDone (dynamicTable signs mags))

/-- `DT.CONST` (R160). -/
def execDtConst (s : State) : Outcome State Fault Refusal :=
  finish s (do
    expect (decide (s.seq.stage = .table))
    s.needRegs [.flagsAB, .version]
    expect (!s.hdr.dynamicTable)
    s.tableDone (constTable s.cfg s.hdr.version))

end Sys2Proof.Machine
end

