-- ==== Sys2Proof/Machine/Inter.lean ====
section
/-! DEFINITION. A9LL inter macroblocks (43_a9ll_inter.md R170-R193). -/

namespace Sys2Proof.Machine

open Sys2Proof Host

/-! ## Full macroblocks -/

/-- The origin of the macroblock whose symbol is next, once the sequencer stands at a full one (`MB16`, R171) or at an
edge one (`MBEDGE`, R186). -/
def State.mbHere (s : State) (full : Bool) : Act (Nat × Nat) := do
  expect (decide (s.seq.stage = .mb))
  let (w, h) ← s.dims
  let o := mbOrigin w s.seq.t
  expect (fullMb w h o == full)
  .ok o

/-- The origin of the macroblock whose copy bit is next (R173, R174). -/
def State.mvHere (s : State) : Act (Nat × Nat) := do
  expect (decide (s.seq.stage = .mvCopy))
  let (w, _) ← s.dims
  .ok (mbOrigin w s.seq.t)

/-- `MB.REFCOPY` (R172): the 256 reference pixels at the same position. -/
def execMbRefCopy (s : State) : Outcome State Fault Refusal :=
  finish s (do
    let (x0, y0) ← s.mbHere true
    let s ← s.skipBits .bit1 2
    let s ← s.copyRef x0 y0 16 0 0
    s.nextMb)

/-- `MB.MVZERO` (R173): the zero vector; the copy bit is next. -/
def execMbMvZero (s : State) : Outcome State Fault Refusal :=
  finish s (do
    let _ ← s.mbHere true
    let s ← s.skipBits .bit1 3
    .ok ((State.mark { s with mv := { x := 0, y := 0 } } .mv).goto .mvCopy))

/-- `MB.MV` (R174): the vector; inside the frame the copy bit is next, outside the macroblock is soft-skipped
(60_exceptions.md R265, R268). -/
def execMbMv (a : BitVec 8) (b : BitVec 7) (s : State) : Outcome State Fault Refusal :=
  finish s (do
    let (x0, y0) ← s.mbHere true
    let (w, h) ← s.dims
    let s ← s.skipBits .bit1 3
    let s ← s.skipBits .bit1 8
    let s ← s.skipBits .bit1 7
    let mv := assembleMv s.cfg.mvAxis a b
    let s := State.mark { s with mv := mv } .mv
    if inside w h (x0 + mv.x) (y0 + mv.y) 16 16 then .ok (s.goto .mvCopy) else s.nextMb)

/-- `MB.MCCOPY` (R175): the 256 reference pixels at the vector. -/
def execMbMcCopy (s : State) : Outcome State Fault Refusal :=
  finish s (do
    let (x0, y0) ← s.mvHere
    let mv ← s.rd .mv s.mv
    let s ← s.skipBits .bit1 1
    let s ← s.copyRef x0 y0 16 mv.x mv.y
    s.nextMb)

/-- `MB.MCSUB` (R176): the gate, then 16 `SUB3` symbols. -/
def execMbMcSub (s : State) : Outcome State Fault Refusal :=
  finish s (do
    let _ ← s.mvHere
    let s ← s.skipBits .bit1 1
    .ok (s.goto (.gate .sub3)))

/-- `MB.SUB2` (R177): the gate, then 16 `SUB2` symbols. -/
def execMbSub2 (s : State) : Outcome State Fault Refusal :=
  finish s (do
    let _ ← s.mbHere true
    let s ← s.skipBits .bit1 1
    .ok (s.goto (.gate .sub2)))

/-- `GATE` (R178): a false gate raises `UNSUPPORTED`; else the sub-block sequence begins at `SEQ.s = 0` (R176, R177).  That the
cells of an edge macroblock begin so too, and that `SEQ.p` becomes 0, is the model's (DESIGN CHOICE, log 19). -/
def execGate (s : State) : Outcome State Fault Refusal :=
  finish s (match s.seq.stage with
    | .gate k => do
      let gate ← s.rd .qpGate s.hdr.qpGate
      require gate .unsupported
      .ok { s with seq := { s.seq with s := 0, p := 0, stage := .sub k } }
    | _ => .error (.fault .outOfSequence))

/-! ## `SUB3` -/

/-- The sequencer stands at a `SUB3` symbol (R176). -/
def State.expectSub3 (s : State) : Act Unit := expect (decide (s.seq.stage = .sub .sub3))

/-- A `SUB3` symbol that reads a mask and pixel symbols (R179, R181, R183). -/
def State.maskedSub3 (s : State) (pr : Predictor) (mask : Half) : Act State := do
  s.expectSub3
  let s ← s.skipBits .bit1 3
  s.openTile pr (.within .sub3) mask

/-- `S3.DIR0` (R179). -/
def execS3Dir0 (mask : Half) (s : State) : Outcome State Fault Refusal :=
  finish s (s.maskedSub3 (.dir s.cfg.dirMap.mode0) mask)

/-- `S3.DIR1` (R179). -/
def execS3Dir1 (mask : Half) (s : State) : Outcome State Fault Refusal :=
  finish s (s.maskedSub3 (.dir s.cfg.dirMap.mode1) mask)

/-- `S3.DIR2` (R179). -/
def execS3Dir2 (mask : Half) (s : State) : Outcome State Fault Refusal :=
  finish s (s.maskedSub3 (.dir s.cfg.dirMap.mode2) mask)

/-- `S3.EDGE` (R180). -/
def execS3Edge (s : State) : Outcome State Fault Refusal :=
  finish s (do
    s.expectSub3
    let s ← s.skipBits .bit1 3
    s.edgeTile (.within .sub3))

/-- `S3.RESREF` (R181): the reference at the same position is the predictor. -/
def execS3ResRef (mask : Half) (s : State) : Outcome State Fault Refusal := finish s (s.maskedSub3 .ref mask)

/-- `S3.COPYREF` (R182). -/
def execS3CopyRef (s : State) : Outcome State Fault Refusal :=
  finish s (do
    s.expectSub3
    let s ← s.skipBits .bit1 3
    let (x, y) ← s.origin (.within .sub3)
    let s ← s.copyRef x y 4 0 0
    s.nextSub .sub3)

/-- `S3.RESMV` (R183): the reference at the macroblock's vector is the predictor. -/
def execS3ResMv (mask : Half) (s : State) : Outcome State Fault Refusal := finish s (s.maskedSub3 .refMv mask)

/-- `S3.COPYMV` (R184), with the bounds test that the source names; outside, the sub-block is soft-skipped. -/
def execS3CopyMv (s : State) : Outcome State Fault Refusal :=
  finish s (do
    s.expectSub3
    let s ← s.skipBits .bit1 3
    let (w, h) ← s.dims
    let (x, y) ← s.origin (.within .sub3)
    let mv ← s.rd .mv s.mv
    let s ← if inside w h (x + mv.x) (y + mv.y) 4 4 then s.copyRef x y 4 mv.x mv.y else .ok s
    s.nextSub .sub3)

/-! ## `SUB2` -/

/-- The tile of the `SUB2` symbol that is next (R185): of a full macroblock, or a whole cell of an edge one (R187). -/
def State.sub2Here (s : State) : Act TileKind :=
  match s.seq.stage with
  | .sub .sub2 => .ok (.within .sub2)
  | .sub .cells => do
    let (w, h) ← s.dims
    expect (cellWhole w h (subOrigin w s.seq.t s.seq.s))
    .ok (.within .cells)
  | _ => .error (.fault .outOfSequence)

/-- A `SUB2` symbol of a directional mode (R185). -/
def State.dirSub2 (s : State) (d : Dir) (mask : Half) : Act State := do
  let k ← s.sub2Here
  let s ← s.skipBits .bit1 2
  s.openTile (.dir d) k mask

/-- `S2.DIR0` (R185). -/
def execS2Dir0 (mask : Half) (s : State) : Outcome State Fault Refusal :=
  finish s (s.dirSub2 s.cfg.dirMap.mode0 mask)

/-- `S2.DIR1` (R185). -/
def execS2Dir1 (mask : Half) (s : State) : Outcome State Fault Refusal :=
  finish s (s.dirSub2 s.cfg.dirMap.mode1 mask)

/-- `S2.DIR2` (R185). -/
def execS2Dir2 (mask : Half) (s : State) : Outcome State Fault Refusal :=
  finish s (s.dirSub2 s.cfg.dirMap.mode2 mask)

/-- `S2.EDGE` (R185). -/
def execS2Edge (s : State) : Outcome State Fault Refusal :=
  finish s (do
    let k ← s.sub2Here
    let s ← s.skipBits .bit1 2
    s.edgeTile k)

/-! ## Edge macroblocks -/

/-- `EMB.SKIP1` (R186): a set skip bit raises `UNSUPPORTED`. -/
def execEmbSkip1 (s : State) : Outcome State Fault Refusal :=
  finish s (do
    let _ ← s.mbHere false
    let _ ← s.skipBits .bit1 1
    .error (.raise .unsupported))

/-- `EMB.CELLS` (R186, R187): a clear skip bit; the gate, then the visible cells. -/
def execEmbCells (s : State) : Outcome State Fault Refusal :=
  finish s (do
    let _ ← s.mbHere false
    let s ← s.skipBits .bit1 1
    .ok (s.goto (.gate .cells)))

/-- The visible columns and rows of a cell (R188). -/
def cellExtent (w h : Nat) (o : Nat × Nat) : Nat × Nat := (min 4 (w - o.1), min 4 (h - o.2))

/-- The origin and visible extent of the partly visible cell that is next (R187). -/
def State.litCellHere (s : State) : Act ((Nat × Nat) × (Nat × Nat)) := do
  expect (decide (s.seq.stage = .sub .cells))
  let (w, h) ← s.dims
  let o := subOrigin w s.seq.t s.seq.s
  expect (cellVisible w h o && !cellWhole w h o)
  .ok (o, cellExtent w h o)

/-- `EMB.LITCELL` (R188): a literal for each visible pixel, in raster order. -/
def execEmbLitCell (lits : List Half) (s : State) : Outcome State Fault Refusal :=
  finish s (do
    let ((x0, y0), (cols, rows)) ← s.litCellHere
    expect (lits.length == cols * rows)
    let s ← s.skipBytes .edgelit (2 * lits.length)
    let s ← s.fillRect x0 y0 cols rows fun x y => lits.getD ((y - y0) * cols + (x - x0)) 0
    s.nextSub .cells)

end Sys2Proof.Machine
end

