-- ==== Sys2Proof/Machine/Orchestrator.lean ====
section
/-! DEFINITION. The frame orchestrator and the host's commands (46_orchestrator.md R240-R259, 70_reset_and_hazards.md
R285): DECODE, RESET, the checks after the header, the family dispatch, and completion. -/

namespace Sys2Proof.Machine

open Sys2Proof Host

/-! ## Host commands -/

/-- The packet as the memory `P` (20_memory.md R50). -/
def packetMemory (packet : List Byte) : Memory := Memory.setBytes [] 0 packet

/-- `DECODE` (R241, R245): the packet, its length and the stride are taken, the phase becomes BUSY, the header front end
starts, and no working register is written yet (10_state.md R39).  R245 writes `SEQ.unit` only: `SEQ.t`, `SEQ.s` and `SEQ.p`
become 0 (DESIGN CHOICE, log 19).  `OUT` and the output buffer keep what they held, in the
buffer of a new size too (DESIGN CHOICE, log 17). -/
def execDecode (packet : List Byte) (stride cap : Nat) (s : State) : Outcome State Fault Refusal :=
  finish s (
    if s.status.phase = .busy then .error (.refuse .busy)
    else if s.cfg.maxPacket < packet.length then .error (.refuse .packetTooLong)
    else .ok { s with
      status := { s.status with phase := .busy }
      seq := { unit := .hdr, t := 0, s := 0, p := 0, stage := .hdr .len }
      written := []
      pkt := packetMemory packet
      len := packet.length
      stride := stride
      cap := cap })

/-- `RESET` (70_reset_and_hazards.md R285): the reset state; `CFG` is unchanged, and what the host holds is not
QMDEC's to change (log 3). -/
def execReset (s : State) : Outcome State Fault Refusal :=
  finish s (
    if s.status.phase = .busy then .error (.refuse .busy)
    else .ok { State.reset with
      cfg := s.cfg, pkt := s.pkt, len := s.len, stride := s.stride, cap := s.cap, outBuf := s.outBuf, queue := s.queue,
      frees := s.frees })

/-! ## After the header front end -/

/-- The least output buffer (70_reset_and_hazards.md R287). -/
def bufferNeed (w h stride : Nat) : Nat := (h - 1) * stride + 2 * w

/-- The host's duties on its output buffer (R243, 70_reset_and_hazards.md R287; log 9). -/
def State.hostDuties (s : State) : Act Unit := do
  let (w, h) ← s.dims
  if s.stride < 2 * w then .error (.refuse .strideTooSmall)
  else if s.cap < bufferNeed w h s.stride then .error (.refuse .bufferTooSmall)
  else .ok ()

/-- The orchestrator's step after the header front end (R244, R259): the frame-store allocation, the host's duties on
the output buffer, and the refusal of an index-colour frame. -/
def State.orchestrate (s : State) : Act State := do
  let (w, h) ← s.dims
  require (decide (w * h ≤ s.cfg.maxPixels)) .allocFail
  s.hostDuties
  s.needRegs [.flagsCD]
  if s.hdr.indexColor && s.cfg.indexColor == .refuse then .error (.refuse .indexColor)
  else .ok (s.goto .dispatch)

/-! ## Family dispatch -/

/-- The dispatch branch that the header selects (R259). -/
def State.dispatchFormat (s : State) : Act Format := do
  s.needRegs [.flagsAB]
  let first ← if s.hdr.animated then s.rd .isFirst s.hdr.isFirst else .ok false
  .ok (.dispatch s.hdr.extraException s.hdr.animated first (s.hdr.encoderMode == s.cfg.w2Mode) s.hdr.depth)

/-- The sequencer stands at the dispatch, and the header selects this branch. -/
def State.expectBranch (s : State) (i : Instr) : Act Unit := do
  expect (decide (s.seq.stage = .dispatch))
  let f ← s.dispatchFormat
  expect (f.admits i)

/-- Enter a family's unit.  The dispatch rules (R248, R250, R253) write `SEQ.unit` only: `SEQ.t`, `SEQ.s` and `SEQ.p` become
0, in a W2 unit too, where R31 gives them no meaning (DESIGN CHOICE, log 19). -/
def State.enterUnit (s : State) (u : SeqUnit) (f : Pixels) : State :=
  { s with frame := f, seq := { s.seq with unit := u, t := 0, s := 0, p := 0 } }

/-- The frame store of an inter frame before its first symbol: `P11.init(x, y)` at every pixel (R246). -/
def State.interFrame (s : State) (w h : Nat) : Pixels :=
  match s.cfg.interInit with
  | .const v => if v = 0 then [] else Pixels.fill [] 0 0 w h fun _ _ => v
  | .impl id => Pixels.fill [] 0 0 w h fun x y => Config.interInitFn id x y

/-- `DISPATCH.INTRA` (R248): `F` all zero (R246), the A9LL reader set, and the delta table next (42_a9ll_intra.md R145,
R162).  A size that is no multiple of 4 is refused under P19 = REFUSE (42_a9ll_intra.md R163). -/
def execDispatchIntra (s : State) : Outcome State Fault Refusal :=
  finish s (do
    s.expectBranch .dispatchIntra
    let (w, h) ← s.dims
    if !wholeTiles w h && s.cfg.intraPartial == .refuse then .error (.refuse .intraPartial)
    else do
      let s ← (s.enterUnit .a9llIntra []).buildA9LL
      .ok (s.goto .table))

/-- The packet below `data_end`: what a colour-plane decoder may read (R249). -/
def State.colourPlane (s : State) : Memory := s.pkt.filter fun e => decide (e.1 < s.hdr.dataEnd)

/-- P19's frame procedure (42_a9ll_intra.md R145, R163), run over the reader set and the table of the frame; the one error
it may raise is R145's. -/
def State.partialFrame (s : State) : Act State := do
  let (w, h) ← s.dims
  s.needRegs [.rsA9LL, .dt, .dataEnd]
  match s.cfg.intraPartial with
  | .refuse => .error (.refuse .intraPartial)
  | .impl id =>
    match Config.partialIntraFn id s.colourPlane s.hdr.dataEnd s.dt w h with
    | none => .error (.raise .invalidData)
    | some f => do
      let s ← s.fillRect 0 0 w h f
      .ok s.gotoComplete

/-- `DISPATCH.INTER` (R250): the reference check (R251), `F` at P11's values (R246), the A9LL reader set, and the delta
table next. -/
def execDispatchInter (s : State) : Outcome State Fault Refusal :=
  finish s (do
    s.expectBranch .dispatchInter
    let (w, h) ← s.dims
    require (s.ref.valid && s.ref.w == s.hdr.w && s.ref.h == s.hdr.h) .invalidData
    let s := s.enterUnit .a9llInter (s.interFrame w h)
    let s ← s.buildA9LL
    .ok (s.goto .table))

/-- `DISPATCH.W2D1` (R253): `F` all zero, then `W2.D1(P, header_size, data_end)` (44_w2_depth1.md R200; log 8). -/
def execDispatchW2D1 (s : State) : Outcome State Fault Refusal :=
  finish s (do
    s.expectBranch .dispatchW2D1
    s.needRegs [.headerSize, .dataEnd]
    (s.enterUnit .w2d1 []).startW2D1 .packet s.hdr.dataStart s.hdr.dataEnd)

/-- `DISPATCH.W2D2` (R253): `F` all zero, then `W2.D2` up to its first symbol (45_w2_depth2.md R220, R221, R232). -/
def execDispatchW2D2 (s : State) : Outcome State Fault Refusal :=
  finish s (do
    s.expectBranch .dispatchW2D2
    let d ← s.coding
    let (size, s) ← (s.enterUnit .w2d2 []).buildW2D2 d
    require (decide (size ≤ s.cfg.maxPacket)) .allocFail
    let s := State.mark { s with size := size } .size
    let s := State.mark { s with ibuf := [] } .ibuf
    let s := State.mark { s with ipos := 0 } .ipos
    let s := State.mark { s with dist := d.dist0 } .dist
    if 16 ≤ size then .ok (s.goto .d2Strip1) else s.d2Next)

/-- `DISPATCH.EXTRA` (R247): `UNSUPPORTED`. -/
def execDispatchExtra (s : State) : Outcome State Fault Refusal :=
  finish s (do
    s.expectBranch .dispatchExtra
    .error (.raise .unsupported))

/-- `DISPATCH.MODE` (R252): `UNSUPPORTED`. -/
def execDispatchMode (s : State) : Outcome State Fault Refusal :=
  finish s (do
    s.expectBranch .dispatchMode
    .error (.raise .unsupported))

/-! ## Completion -/

/-- The two bytes of a pixel in the host's buffer, lowest address first (20_memory.md R53, parameter P18). -/
def nativeBytes (e : Endian) (v : Half) : Byte × Byte :=
  match e with
  | .little => (v.extractLsb' 0 8, v.extractLsb' 8 8)
  | .big => (v.extractLsb' 8 8, v.extractLsb' 0 8)

/-- The frame in the host's buffer: pixel `(x, y)` at byte offset `y*stride + 2*x` (20_memory.md R53); padding is not
written. -/
def writeOut (e : Endian) (stride w h : Nat) (f : Pixels) (buf : Memory) : Memory :=
  (raster w h).foldl (fun m p =>
    let b := nativeBytes e (f.at p.1 p.2)
    let a := p.2 * stride + 2 * p.1
    Store.put (Store.put m a b.1) (a + 1) b.2) buf

/-- `OUT` (R255): the last four fields are 0 for a frame that is not animated; `alpha_offset` is 0 without transparency
(R249); every frame decoded without the reference is a key frame (R248, R250, R253). -/
def outOf (h : Header) : OutDesc :=
  { w := h.w
    h := h.h
    keyFrame := !(h.animated && !h.isFirst)
    transparency := h.transparency
    alphaOffset := if h.transparency then h.alphaBytes else 0
    animated := h.animated
    totalFrames := if h.animated then h.totalFrames else 0
    currentFrame := if h.animated then h.currentFrame else 0
    delayMs := if h.animated then h.delayMs else 0
    noRepeat := if h.animated then h.noRepeat else 0 }

/-- The header registers that `OUT` is made of. -/
def outNeeds (h : Header) : List Reg :=
  [.flagsAB] ++ (if h.transparency then [.alphaBytes] else []) ++ (if h.animated then [.anim, .isFirst] else [])

/-- The header registers that say what the decoded samples mean (P15). -/
def meaningNeeds (h : Header) : List Reg :=
  [.flagsCD] ++ (if h.indexColor then [.colorCount, .dataEnd] else [])

/-- The completed `F`: the decoded samples, and for an index-colour frame what P15 makes of them (91_not_in_source.md N15,
log 14). -/
def State.finalFrame (s : State) (w h : Nat) : Pixels :=
  if s.hdr.indexColor then
    match s.cfg.indexColor with
    | .decode _ (.impl id) =>
      Pixels.fill [] 0 0 w h (Config.indexPixelFn id s.colourPlane s.hdr.dataEnd s.hdr.colorCount s.frame)
    | _ => s.frame
  else s.frame

/-- Completion (R254, R255): `REF` is replaced by the frame, `OUT`, the host's buffer and `STATUS` are written, as one
step (20_memory.md R62, R63).  Up to this step `OUT` and the host's buffer keep their earlier content: what they hold while
BUSY is unspecified (70_reset_and_hazards.md R290; DESIGN CHOICE, log 17). -/
def State.complete (s : State) : Act State := do
  let (w, h) ← s.dims
  s.needRegs (outNeeds s.hdr)
  s.needRegs (meaningNeeds s.hdr)
  s.hostDuties
  let f := s.finalFrame w h
  .ok { s with
    frame := f
    ref := { valid := true, w := s.hdr.w, h := s.hdr.h, pix := f }
    out := outOf s.hdr
    outBuf := writeOut s.cfg.endian s.stride w h f s.outBuf
    status := { phase := .done, code := .ok }
    seq := { s.seq with stage := .idle } }

end Sys2Proof.Machine
end

