-- ==== Sys2Proof/Machine/W2.lean ====
section
/-! DEFINITION. The W2 depth-1 symbols (44_w2_depth1.md R200-R212). -/

namespace Sys2Proof.Machine

open Sys2Proof Host

/-- `emit(v)` (R207): the next pixel in raster order, or nothing when the frame is full. -/
def State.emit (s : State) (v : Half) : Act State := do
  let k ← s.rd .pixelCount s.k
  let n ← s.rd .pixelCount s.n
  let (w, _) ← s.dims
  if k < n then do
    let s ← s.putPixel (k % w) (k / w) v
    .ok { s with k := k + 1 }
  else .ok s

/-- A pixel pair (R208): `q[15:0]` is the earlier pixel. -/
def State.emitPair (s : State) (q : Word) : Act State := do
  let s ← s.emit (q.extractLsb' 0 16)
  s.emit (q.extractLsb' 16 16)

/-- `n` times the same pair. -/
def State.emitPairs (q : Word) : Nat → State → Act State
  | 0, s => .ok s
  | n + 1, s => do
    let s ← s.emitPair q
    State.emitPairs q n s

/-- `VALUE` (R202), the index of the next symbol (R203). -/
def execValue (v : Nat) (s : State) : Outcome State Fault Refusal :=
  finish s (do
    expect (decide (s.seq.stage = .w2Index))
    let s ← s.skipBytes .idx (v / 255 + 1)
    .ok (s.goto (.w2Sym v)))

/-- `W2.LIT` (R204): the four bytes are consumed whatever `emit` keeps. -/
def execW2Lit (pair : Word) (s : State) : Outcome State Fault Refusal :=
  finish s (do
    expect (decide (s.seq.stage = .w2Sym 0))
    let s ← s.skipBytes .lit 4
    let s ← s.emitPair pair
    s.w2Next)

/-- `W2.RUN` (R205, R206, R211): the table entry is looked up before the run length is read.  A run stops at `K = N`,
since nothing can be observed after that (R212). -/
def execW2Run (idx run : Nat) (s : State) : Outcome State Fault Refusal :=
  finish s (do
    expect (decide (s.seq.stage = .w2Sym idx) && Instr.wf (.w2Run idx run))
    s.needRegs [.rsW2D1]
    s.within s.tab.mem s.tab.stop
    let entry ← s.tab.tableRead (s.mem s.tab.mem) (idx - 1)
    let s := State.mark { s with entry := entry } .entry
    let s ← s.skipBytes .run (run / 255 + 1)
    let s := State.mark { s with run := run } .run
    let k ← s.rd .pixelCount s.k
    let n ← s.rd .pixelCount s.n
    let s ← State.emitPairs entry (min run (n - k)) s
    s.w2Next)

end Sys2Proof.Machine
end

