-- ==== Sys2Proof/Machine/Dispatch.lean ====
section
/-! DEFINITION. The dispatch of an instruction to its meaning: one arm for each constructor. -/

namespace Sys2Proof.Machine

open Sys2Proof

def exec (i : Instr) (s : State) : Host.Outcome State Fault Refusal :=
  match i with
  | .hdrLen => Sys2Proof.Machine.execHdrLen s
  | .hdrMagic => Sys2Proof.Machine.execHdrMagic s
  | .hdrVersion version => Sys2Proof.Machine.execHdrVersion version s
  | .hdrRawType rawType => Sys2Proof.Machine.execHdrRawType rawType s
  | .hdrFlagsAB a b => Sys2Proof.Machine.execHdrFlagsAB a b s
  | .hdrDims w h => Sys2Proof.Machine.execHdrDims w h s
  | .hdrFlagsCD c d => Sys2Proof.Machine.execHdrFlagsCD c d s
  | .hdrAlphaPresent => Sys2Proof.Machine.execHdrAlphaPresent s
  | .hdrAlphaLegacy raw => Sys2Proof.Machine.execHdrAlphaLegacy raw s
  | .hdrAlphaModern raw mode pad => Sys2Proof.Machine.execHdrAlphaModern raw mode pad s
  | .hdrAnim total current delay noRepeat pad => Sys2Proof.Machine.execHdrAnim total current delay noRepeat pad s
  | .hdrIndex pad colorCount => Sys2Proof.Machine.execHdrIndex pad colorCount s
  | .hdrSize => Sys2Proof.Machine.execHdrSize s
  | .hdrXval => Sys2Proof.Machine.execHdrXval s
  | .hdrDataEnd => Sys2Proof.Machine.execHdrDataEnd s
  | .hdrQpGate => Sys2Proof.Machine.execHdrQpGate s
  | .hdrFirst => Sys2Proof.Machine.execHdrFirst s
  | .tile2Dir0 mask => Sys2Proof.Machine.execTile2Dir0 mask s
  | .tile2Dir1 mask => Sys2Proof.Machine.execTile2Dir1 mask s
  | .tile2Dir2 mask => Sys2Proof.Machine.execTile2Dir2 mask s
  | .tile2Edge => Sys2Proof.Machine.execTile2Edge s
  | .pixCopy => Sys2Proof.Machine.execPixCopy s
  | .pixRes0 index => Sys2Proof.Machine.execPixRes0 index s
  | .pixRes1 index => Sys2Proof.Machine.execPixRes1 index s
  | .pixRes2 index => Sys2Proof.Machine.execPixRes2 index s
  | .pixRes3 index => Sys2Proof.Machine.execPixRes3 index s
  | .pixRes4 index => Sys2Proof.Machine.execPixRes4 index s
  | .pixRes5 index => Sys2Proof.Machine.execPixRes5 index s
  | .pixRes6 index => Sys2Proof.Machine.execPixRes6 index s
  | .pixLit lit => Sys2Proof.Machine.execPixLit lit s
  | .dtab signs mags => Sys2Proof.Machine.execDtab signs mags s
  | .dtConst => Sys2Proof.Machine.execDtConst s
  | .mbRefCopy => Sys2Proof.Machine.execMbRefCopy s
  | .mbMvZero => Sys2Proof.Machine.execMbMvZero s
  | .mbMv a b => Sys2Proof.Machine.execMbMv a b s
  | .mbMcCopy => Sys2Proof.Machine.execMbMcCopy s
  | .mbMcSub => Sys2Proof.Machine.execMbMcSub s
  | .mbSub2 => Sys2Proof.Machine.execMbSub2 s
  | .gate => Sys2Proof.Machine.execGate s
  | .s3Dir0 mask => Sys2Proof.Machine.execS3Dir0 mask s
  | .s3Dir1 mask => Sys2Proof.Machine.execS3Dir1 mask s
  | .s3Dir2 mask => Sys2Proof.Machine.execS3Dir2 mask s
  | .s3Edge => Sys2Proof.Machine.execS3Edge s
  | .s3ResRef mask => Sys2Proof.Machine.execS3ResRef mask s
  | .s3CopyRef => Sys2Proof.Machine.execS3CopyRef s
  | .s3ResMv mask => Sys2Proof.Machine.execS3ResMv mask s
  | .s3CopyMv => Sys2Proof.Machine.execS3CopyMv s
  | .s2Dir0 mask => Sys2Proof.Machine.execS2Dir0 mask s
  | .s2Dir1 mask => Sys2Proof.Machine.execS2Dir1 mask s
  | .s2Dir2 mask => Sys2Proof.Machine.execS2Dir2 mask s
  | .s2Edge => Sys2Proof.Machine.execS2Edge s
  | .embSkip1 => Sys2Proof.Machine.execEmbSkip1 s
  | .embCells => Sys2Proof.Machine.execEmbCells s
  | .embLitCell lits => Sys2Proof.Machine.execEmbLitCell lits s
  | .value v => Sys2Proof.Machine.execValue v s
  | .w2Lit pair => Sys2Proof.Machine.execW2Lit pair s
  | .w2Run idx run => Sys2Proof.Machine.execW2Run idx run s
  | .d2Strip1 q => Sys2Proof.Machine.execD2Strip1 q s
  | .d2Value code payload => Sys2Proof.Machine.execD2Value code payload s
  | .d2Dist flag update => Sys2Proof.Machine.execD2Dist flag update s
  | .d2StripSel code kind => Sys2Proof.Machine.execD2StripSel code kind s
  | .d2Verb bytes => Sys2Proof.Machine.execD2Verb bytes s
  | .d2Back => Sys2Proof.Machine.execD2Back s
  | .d2Strip2 fromBits mask => Sys2Proof.Machine.execD2Strip2 fromBits mask s
  | .d2Tail bytes => Sys2Proof.Machine.execD2Tail bytes s
  | .dispatchIntra => Sys2Proof.Machine.execDispatchIntra s
  | .dispatchInter => Sys2Proof.Machine.execDispatchInter s
  | .dispatchW2D1 => Sys2Proof.Machine.execDispatchW2D1 s
  | .dispatchW2D2 => Sys2Proof.Machine.execDispatchW2D2 s
  | .dispatchExtra => Sys2Proof.Machine.execDispatchExtra s
  | .dispatchMode => Sys2Proof.Machine.execDispatchMode s
  | .decode packet stride cap => Sys2Proof.Machine.execDecode packet stride cap s
  | .reset => Sys2Proof.Machine.execReset s

end Sys2Proof.Machine
end

