-- ==== Sys2Proof/Machine/Fetch.lean ====
section
/-! DEFINITION. Fetching an instruction: the format that the sequencer expects, what the cursors have left, and the
decoder's answer.  The bitstream takes the place of an instruction stream (20_memory.md R51). -/

namespace Sys2Proof.Machine

open Sys2Proof

/-- The next symbol of a macroblock: a full one (`MB16`) or an edge one (`MBEDGE`) (43_a9ll_inter.md R170). -/
def State.mbFormat (s : State) : Act Format := do
  let (w, h) ← s.dims
  .ok (if fullMb w h (mbOrigin w s.seq.t) then .mb16 else .mbEdge)

/-- The next cell of an edge macroblock: `SUB2`, or literals (43_a9ll_inter.md R187). -/
def State.cellFormat (s : State) : Act Format := do
  let (w, h) ← s.dims
  let o := subOrigin w s.seq.t s.seq.s
  let (cols, rows) := cellExtent w h o
  .ok (if cellWhole w h o then .sub2 else .litCell (cols * rows))

/-- The registers that choose the layout and the place of a header step's fields. -/
def hdrFormatNeeds : HdrStep → List Reg
  | .alpha => [.version]
  | .index => [.flagsCD, .headerSize]
  | _ => []

/-- The format of the next symbol. -/
def State.format (s : State) : Act Format :=
  match s.seq.stage with
  | .idle => .ok .command
  | .hdr k => do
    s.needRegs (hdrFormatNeeds k)
    .ok (.hdr k s.hdr.legacy s.hdr.ninePatch)
  | .dispatch => s.dispatchFormat
  | .table => do
    s.needRegs [.flagsAB]
    .ok (.table s.hdr.dynamicTable)
  | .tile => .ok .tile2
  | .mb => s.mbFormat
  | .mvCopy => .ok .mvCopy
  | .gate _ => .ok .gate
  | .sub .sub3 => .ok .sub3
  | .sub .sub2 => .ok .sub2
  | .sub .cells => s.cellFormat
  | .pixel _ _ => do
    let bit ← s.maskBit s.seq.p
    .ok (.pixel bit)
  | .w2Index => .ok .value
  | .w2Sym idx => .ok (.w2Sym idx)
  | .d2Strip1 => .ok .d2Strip1
  | .d2Value strip j => do
    let d ← s.coding
    .ok (.d2Value (kindCode d strip j))
  | .d2Dist _ _ => do
    let d ← s.coding
    .ok (.d2Dist d.distIfClear d.distIfSet)
  | .d2Sel => do
    let d ← s.coding
    .ok (.d2StripSel d.selector)
  | .d2Body kind => do
    let d ← s.coding
    .ok (.d2Body kind d.maskInBits)
  | .d2Tail => do
    let size ← s.rd .size s.size
    let ipos ← s.rd .ipos s.ipos
    .ok (.d2Tail (size - ipos))
  | .orchestrate => .error (.fault .outOfSequence)
  | .partialFrame => .error (.fault .outOfSequence)
  | .complete => .error (.fault .outOfSequence)

/-- The offset in the packet of a header step's first field (30_encoding.md R71). -/
def State.hdrOffset (s : State) : HdrStep → Nat
  | .magic => 0
  | .version => 2
  | .rawType => 3
  | .flagsAB => 4
  | .dims => 6
  | .flagsCD => 10
  | .alpha => 12
  | .scale => 12
  | .anim => 16
  | .index => s.hdr.headerSize.toNat
  | _ => 0

/-- The packet from offset `o` on, at most `n` bytes of it. -/
def State.packetFrom (s : State) (o n : Nat) : List Byte :=
  (List.range (min n (s.len - o))).map fun j => Store.get s.pkt (o + j)

/-- The longest prefix code a tree holds. -/
def codeDepth {α : Type} : PrefixCode α → Nat
  | .leaf _ => 0
  | .node z o => 1 + max (codeDepth z) (codeDepth o)

/-- The first bit of `D2B` decides whether a distance is read (45_w2_depth2.md R224). -/
def State.distBytes (s : State) (ifClear ifSet : DistOp) (bits : List Bool) : Act (List Byte) :=
  match (match bits with | b :: _ => if b then ifSet else ifClear | [] => .keep) with
  | .keep => .ok []
  | _ => s.peekBytes .d2dist 2

/-- What the kind code of a depth-2 value says is read next. -/
def State.valueStreams (s : State) (code : PrefixCode ValueKind) : Act Streams := do
  let bits ← s.peekBits .d2b (codeDepth code)
  match takeCode code bits with
  | .ok (_, .xor, _) => do
    let key ← s.peekBytes .d2key 1
    .ok { d2b := bits, d2key := key }
  | .ok (_, .lit, _) => do
    let lit ← s.peekBytes .d2l 2
    .ok { d2b := bits, d2l := lit }
  | _ => .ok { d2b := bits }

/-- The pixel symbol reads `BIT2`, then by its class `BIT1` or `LITC` (30_encoding.md R76). -/
def State.pixelStreams (s : State) : Act Streams := do
  let cls ← s.peekBits .bit2 3
  if cls = [true, true, true] then do
    let lit ← s.peekBytes .litc 2
    .ok { bit2 := cls, litc := lit }
  else do
    let i ← s.peekBits .bit1 7
    .ok { bit2 := cls, bit1 := i }

/-- A symbol of `BIT1` mode bits that a mask may follow. -/
def State.modeStreams (s : State) (n : Nat) : Act Streams := do
  let bits ← s.peekBits .bit1 n
  let mask ← s.peekBytes .maskc 2
  .ok { bit1 := bits, maskc := mask }

/-- What the cursors that a format reads have left. -/
def State.streams (s : State) : Format → Act Streams
  | .hdr k _ _ => .ok { header := s.packetFrom (s.hdrOffset k) 8 }
  | .dispatch _ _ _ _ _ => .ok {}
  | .table dynamic =>
    if dynamic then do
      let bytes ← s.peekBytes .tabc 1536
      .ok { tabc := bytes }
    else .ok {}
  | .tile2 => s.modeStreams 2
  | .pixel maskBit => if maskBit then .ok {} else s.pixelStreams
  | .mb16 => do
    let bits ← s.peekBits .bit1 18
    .ok { bit1 := bits }
  | .mbEdge => do
    let bits ← s.peekBits .bit1 1
    .ok { bit1 := bits }
  | .mvCopy => do
    let bits ← s.peekBits .bit1 1
    .ok { bit1 := bits }
  | .gate => .ok {}
  | .sub3 => s.modeStreams 3
  | .sub2 => s.modeStreams 2
  | .litCell count => do
    let bytes ← s.peekBytes .edgelit (2 * count)
    .ok { edgelit := bytes }
  | .value => do
    let left ← s.bytesLeft .idx
    let bytes ← s.peekBytes .idx left
    .ok { idx := bytes }
  | .w2Sym idx =>
    if idx = 0 then do
      let bytes ← s.peekBytes .lit 4
      .ok { lit := bytes }
    else do
      let left ← s.bytesLeft .run
      let bytes ← s.peekBytes .run left
      .ok { run := bytes }
  | .d2Strip1 => do
    let bytes ← s.peekBytes .d2l 4
    .ok { d2l := bytes }
  | .d2Value code => s.valueStreams code
  | .d2Dist ifClear ifSet => do
    let bits ← s.peekBits .d2b 1
    let bytes ← s.distBytes ifClear ifSet bits
    .ok { d2b := bits, d2dist := bytes }
  | .d2StripSel code => do
    let bits ← s.peekBits .d2b (codeDepth code)
    .ok { d2b := bits }
  | .d2Body kind maskInBits =>
    match kind with
    | .verb => do
      let bytes ← s.peekBytes .d2l 16
      .ok { d2l := bytes }
    | .back => .ok {}
    | .strip2 =>
      if maskInBits then do
        let bits ← s.peekBits .d2b 8
        .ok { d2b := bits }
      else do
        let bytes ← s.peekBytes .d2mask 1
        .ok { d2mask := bytes }
  | .d2Tail count => do
    let bytes ← s.peekBytes .d2l count
    .ok { d2l := bytes }
  | .command => .ok { cmd := s.queue.head? }

/-- The instruction that is next; a symbol the decoder rejects ends the DECODE with the rejection's status. -/
def State.fetch (s : State) : Act Instr := do
  let f ← s.format
  let st ← s.streams f
  match decode f st with
  | .ok i => .ok i
  | .error r => .error (.raise r.err)

/-- The host's command is issued: it leaves the queue (log 3).  Any other instruction takes none. -/
def State.issue (s : State) : State :=
  if s.seq.stage = .idle then { s with queue := s.queue.tail } else s

end Sys2Proof.Machine
end

