-- ==== Sys2Proof/Machine/TableWord.lean ====
section
/-! DEFINITION. Placing a table word (Decode.lean, log 12) where the next step fetches its instruction.  QMDEC does not
fetch at an address: which symbol is next follows from the sequencer's place, and its bits come from cursors that a reader
set has been built for.  So placing a word puts the sequencer at the word's format, in a small frame of that format's
family, with every cursor over the word's own bytes. -/

namespace Sys2Proof.Machine

open Sys2Proof

/-- Every working register (10_state.md R39). -/
def allRegs : List Reg :=
  [.version, .rawType, .flagsAB, .dims, .flagsCD, .alphaField, .alphaRaw, .alphaBytes, .anim, .isFirst, .headerSize,
   .colorCount, .dataEnd, .qpGate, .rsA9LL, .dt, .mv, .mask, .rsW2D1, .pixelCount, .run, .entry, .rsW2D2, .size, .ibuf,
   .ipos, .dist]

/-- The place of the sequencer for a tag of `tagFormat`. -/
def tagStage (tag : Nat) : Stage :=
  match tag with
  | 0 => .idle
  | 1 => .hdr .len
  | 2 => .hdr .magic
  | 3 => .hdr .version
  | 4 => .hdr .rawType
  | 5 => .hdr .flagsAB
  | 6 => .hdr .dims
  | 7 => .hdr .flagsCD
  | 8 => .hdr .alphaPresent
  | 9 => .hdr .alpha
  | 10 => .hdr .alpha
  | 11 => .hdr .anim
  | 12 => .hdr .first
  | 13 => .hdr .size
  | 14 => .hdr .index
  | 15 => .hdr .index
  | 16 => .hdr .xval
  | 17 => .hdr .dataEnd
  | 18 => .hdr .qpGate
  | 19 => .dispatch
  | 20 => .table
  | 21 => .table
  | 22 => .tile
  | 23 => .pixel (.dir .up) .frame
  | 24 => .pixel (.dir .up) .frame
  | 25 => .mb
  | 26 => .mb
  | 27 => .mvCopy
  | 28 => .gate .sub2
  | 29 => .sub .sub3
  | 30 => .sub .sub2
  | 31 => .sub .cells
  | 32 => .w2Index
  | 33 => .w2Sym 0
  | 34 => .w2Sym 1
  | 35 => .d2Strip1
  | 36 => .d2Value .first 0
  | 37 => .d2Dist .first 0
  | 38 => .d2Sel
  | 39 => .d2Body .verb
  | 40 => .d2Body .back
  | 41 => .d2Body .strip2
  | 42 => .d2Tail
  | _ => .idle

/-- The unit that a tag's format belongs to. -/
def tagUnit (tag : Nat) : SeqUnit :=
  if tag ≤ 19 then .hdr else if tag ≤ 24 then .a9llIntra else if tag ≤ 31 then .a9llInter
  else if tag ≤ 34 then .w2d1 else .w2d2

/-- The frame size for a tag: one full macroblock, or an edge one whose first cell is whole or has four visible pixels. -/
def tagSize (tag : Nat) : Half × Half := if tag = 26 then (4, 4) else if tag = 31 then (1, 4) else (16, 16)

/-- Where the payload lies in the packet: at a header step's fields, else at 16. -/
def tagPlace (tag : Nat) : Nat :=
  match tagStage tag with
  | .hdr .magic => 0
  | .hdr .version => 2
  | .hdr .rawType => 3
  | .hdr .flagsAB => 4
  | .hdr .dims => 6
  | .hdr .flagsCD => 10
  | .hdr .alpha => 12
  | _ => 16

/-- The header in which a tag's symbol is next.  The dispatch conditions come from the payload; an index-colour frame has
the nine-patch word for tag 14. -/
def tagHeader (cfg : Config) (tag : Nat) (payload : List Byte) (len : Nat) : Header :=
  let flag (k : Nat) : Bool := payload.getD k 0 != 0
  let h : Header := { Header.zero with
    w := (tagSize tag).1, h := (tagSize tag).2, qpGate := true, headerSize := 16, dataStart := 16, dataEnd := len }
  match tag with
  | 9 => { h with legacy := true, alphaField := true, transparency := true }
  | 10 => { h with alphaField := true, transparency := true }
  | 11 => { h with animated := true, alphaField := true }
  | 14 => { h with indexColor := true, ninePatch := true }
  | 15 => { h with indexColor := true }
  | 16 => { h with alphaField := true }
  | 19 => { h with
      extraException := flag 0, animated := flag 1, isFirst := flag 2,
      encoderMode := if flag 3 then cfg.w2Mode else cfg.w2Mode + 1,
      depth := (payload.getD 4 0).setWidth 16 }
  | 21 => { h with dynamicTable := true }
  | _ => h

/-- A byte cursor over the payload. -/
def payloadCursor (start stop : Nat) : ByteCursor := { mem := .packet, start := start, stop := stop, pos := start }

/-- `s` with a table word as its next instruction: a host command waits, or the sequencer stands at the word's symbol.
`BIT1` is over the word's bytes 1-3, `BIT2` and `D2B` over byte 4, every byte cursor over the payload. -/
def State.placeWord (s : State) (nbits w : Nat) : State :=
  let tag := (wordByte w 0).toNat
  let payload := wordPayload nbits w
  if tag = 0 then { s with seq := Seq.atRest, queue := [wordCommand nbits w] }
  else
    let at0 := tagPlace tag
    let stop := at0 + payload.length
    let bits := wordBytes w 1 4
    let cur := payloadCursor at0 stop
    let bank : ByteBank := { p0 := cur, p1 := cur, p2 := cur, p3 := cur }
    let size := (tagSize tag).1
    { s with
      cfg := { s.cfg with d2 := if 35 ≤ tag then some D2Coding.sample else s.cfg.d2 }
      status := { s.status with phase := .busy }
      ref := { valid := true, w := size, h := (tagSize tag).2, pix := s.ref.pix }
      hdr := tagHeader s.cfg tag payload (stop + 4)
      seq := { unit := tagUnit tag, t := 0, s := 0, p := 0, stage := tagStage tag }
      bit1 := { mem := .packet, start := stop, stop := stop + 3, bitpos := 0 }
      bit2 := { mem := .packet, start := stop + 3, stop := stop + 4, bitpos := 0 }
      d2b := { mem := .packet, start := stop + 3, stop := stop + 4, bitpos := 0 }
      a9 := bank
      a9map := { maskc := .p0, litc := .p0, tabc := .p0, edgelit := .p0 }
      tab := cur
      idx := cur
      lit := cur
      d2 := bank
      mask := if tag = 23 then 0xFFFF else 0
      k := 0
      n := 256
      size := if tag = 42 then 20 else 48
      ibuf := []
      ipos := if tag = 42 then 16 else if tag = 35 then 0 else if tag ≤ 37 then 4 else 16
      dist := 1
      written := allRegs
      pkt := Memory.setBytes (Memory.setBytes [] at0 payload) stop bits
      len := stop + 4 }

end Sys2Proof.Machine
end

