-- ==== Sys2Proof/Machine/Step.lean ====
section
/-! DEFINITION. One step of QMDEC (00_scope.md R6): one symbol, header step, dispatch branch or host command, or one of the
three steps that no row of the opcode table names (log 4). -/

namespace Sys2Proof.Machine

open Sys2Proof

/-- Fetch the next instruction and run it; a symbol that cannot be fetched ends the DECODE (60_exceptions.md R266). -/
def State.runNext (s : State) : Host.Outcome State Fault Refusal :=
  match s.fetch with
  | .ok i => exec i s.issue
  | .error e => finish s (.error e)

/-- One step.  With no DECODE running and no command waiting, the block is idle and keeps its state
(60_exceptions.md R281). -/
def step (s : State) : Host.Outcome State Fault Refusal :=
  match s.seq.stage with
  | .orchestrate => finish s s.orchestrate
  | .partialFrame => finish s s.partialFrame
  | .complete => finish s s.complete
  | .idle => if s.queue = [] then .next s else s.runNext
  | _ => s.runNext

/-- `s` with the instruction of a table word as the one the next step runs (log 12). -/
def State.withFetchWord (s : State) (nbits w : Nat) : State := s.placeWord nbits w

end Sys2Proof.Machine
end

