-- ==== Sys2Proof/Safety.lean ====
section
/-! DEFINITION. What counts as a safe run: the canonical form of the memories, when a cursor can deliver a read, what a
raised error leaves (46_orchestrator.md R257), and the invariant that every step keeps, from which no step faults
(20_memory.md R60, 10_state.md R39). -/

namespace Sys2Proof.Machine

open Sys2Proof

/-! ## Memories -/

/-- Every memory is in its one canonical form (log 6). -/
def State.canonical (s : State) : Bool :=
  Memory.wf s.pkt && Memory.wf s.ibuf && Store.wf s.frame && Store.wf s.ref.pix && Store.rising 0 s.outBuf

/-! ## What a meaning needs -/

/-- This DECODE has written these working registers (10_state.md R39). -/
def State.has (s : State) (rs : List Reg) : Bool := rs.all fun r => decide (r ∈ s.written)

/-- The memory a cursor reads has been written: `IBUF` and `S` are working registers. -/
def State.memHas (s : State) : CurMem → Bool
  | .packet => true
  | .ibuf => s.has [.ibuf, .size]

/-- A region that ends at `stop` lies inside its memory (20_memory.md R60). -/
def State.holds (s : State) (mem : CurMem) (stop : Nat) : Bool := s.memHas mem && decide (stop ≤ s.memLen mem)

/-- `BitRead(c, n)` on this cursor succeeds: its reader set is built, its region lies in its memory, and `n` bits are
left (41_readers.md R130). -/
def State.bitsReady (s : State) (id : BitCur) (n : Nat) : Bool :=
  s.has [bitCurReg id] && s.holds (s.bitCur id).mem (s.bitCur id).stop && decide (n ≤ (s.bitCur id).avail)

/-- `ReadBytes(c, n)` on this cursor succeeds (41_readers.md R138). -/
def State.bytesReady (s : State) (id : ByteCur) (n : Nat) : Bool :=
  match s.byteCur id with
  | .ok c => s.holds c.mem c.stop && decide (n ≤ c.avail)
  | .error _ => false

/-- The reader set of this cursor is built over a region that holds it, and fewer than `n` bits are left. -/
def State.bitsShort (s : State) (id : BitCur) (n : Nat) : Bool :=
  s.has [bitCurReg id] && s.holds (s.bitCur id).mem (s.bitCur id).stop && decide ((s.bitCur id).avail < n)

/-- The reader set of this cursor is built over a region that holds it, and fewer than `n` bytes are left. -/
def State.bytesShort (s : State) (id : ByteCur) (n : Nat) : Bool :=
  match s.byteCur id with
  | .ok c => s.holds c.mem c.stop && decide (c.avail < n)
  | .error _ => false

/-- Every byte that this cursor has left is 0xFF, so that a `VALUE` read from it never ends (44_w2_depth1.md R202). -/
def State.bytesAllFF (s : State) (id : ByteCur) : Bool :=
  match s.byteCur id with
  | .ok c => s.holds c.mem c.stop && (c.bytes (s.mem c.mem) c.avail).all fun b => b == 0xFF
  | .error _ => false

/-- The bit cursor after `n` more bits. -/
def BitCursor.after (c : BitCursor) (n : Nat) : BitCursor := { c with bitpos := c.bitpos + n }

/-- The byte cursor after `n` more bytes. -/
def ByteCursor.after (c : ByteCursor) (n : Nat) : ByteCursor := { c with pos := c.pos + n }

/-- The bank of physical byte cursors after `n` more bytes of one of them (41_readers.md R144). -/
def ByteBank.after (b : ByteBank) (p : Phys) (n : Nat) : ByteBank := b.set ((b.get p).after n) p

/-- `W` and `H` as numbers. -/
def State.fw (s : State) : Nat := s.hdr.w.toNat
/-- `H` as a number. -/
def State.fh (s : State) : Nat := s.hdr.h.toNat

/-- The origin of the tile or cell that `SEQ` names (00_scope.md R12). -/
def State.tileAt (s : State) : TileKind → Nat × Nat
  | .frame => tileOrigin s.fw s.seq.t
  | .within _ => subOrigin s.fw s.seq.t s.seq.s

/-- The tile that `SEQ` names lies inside the image. -/
def State.tileFits (s : State) (k : TileKind) : Bool :=
  decide ((s.tileAt k).1 + 4 ≤ s.fw) && decide ((s.tileAt k).2 + 4 ≤ s.fh)

/-- The coordinates of the pixel that `SEQ` names in that tile (00_scope.md R12). -/
def State.pixelAt (s : State) (k : TileKind) : Nat × Nat :=
  ((s.tileAt k).1 + s.seq.p % 4, (s.tileAt k).2 + s.seq.p / 4)

/-- The origin of the macroblock that `SEQ` names (43_a9ll_inter.md R170). -/
def State.mbAt (s : State) : Nat × Nat := mbOrigin s.fw s.seq.t

/-- The macroblock that `SEQ` names lies inside the image (R170). -/
def State.mbFull (s : State) : Bool := fullMb s.fw s.fh s.mbAt

/-- `REF` is valid and has the size of the frame (46_orchestrator.md R251). -/
def State.refUsable (s : State) : Bool := s.ref.valid && s.ref.w == s.hdr.w && s.ref.h == s.hdr.h

/-- The cell or tile that `SEQ` names, of a sub-block sequence. -/
def State.subAt (s : State) : Nat × Nat := s.tileAt (.within .sub3)

/-! ## What lies under a cursor -/

/-- The byte `i` places after the position of a byte cursor, in the cursor's memory (41_readers.md R135). -/
def State.byteUnder (s : State) (c : ByteCursor) (i : Nat) : Byte := Store.get (s.mem c.mem) (c.pos + i)

/-- The little-endian u16 that starts there (R136). -/
def State.halfUnder (s : State) (c : ByteCursor) (i : Nat) : Half := Memory.u16 (s.mem c.mem) (c.pos + i)

/-- The little-endian u32 under a byte cursor (R137). -/
def State.wordUnder (s : State) (c : ByteCursor) : Word := Memory.u32 (s.mem c.mem) c.pos

/-- A continuation value lies under a byte cursor (30_encoding.md R83): one byte 0xFF for each 255, then the rest. -/
def State.valueUnder (s : State) (c : ByteCursor) (v : Nat) : Bool :=
  (List.range (v / 255)).all (fun j => s.byteUnder c j == 0xFF) && s.byteUnder c (v / 255) == BitVec.ofNat 8 (v % 255)

/-- The next `n` bits of a bit cursor (41_readers.md R128). -/
def State.bitsUnder (s : State) (id : BitCur) (n : Nat) : List Bool := (s.bitCur id).bits (s.mem (s.bitCur id).mem) n

/-- A bit cursor can deliver these bits, and they are the next ones. -/
def State.codeUnder (s : State) (id : BitCur) (code : List Bool) : Bool :=
  s.bitsReady id code.length && s.bitsUnder id code.length == code

/-- A bit cursor ends inside this code: all that it has left is a proper beginning of the code. -/
def State.codeCut (s : State) (id : BitCur) (code : List Bool) : Bool :=
  s.bitsShort id code.length && s.bitsUnder id (s.bitCur id).avail == code.take (s.bitCur id).avail

/-- A `SUB2` symbol is next: in a `SUB2` sequence, or in a whole cell of an edge macroblock (43_a9ll_inter.md R185,
R187). -/
def State.sub2Next (s : State) : Bool :=
  s.seq.stage == .sub .sub2 || s.seq.stage == .sub .cells && s.has [.dims] && s.tileFits (.within .cells)

/-! ## The predictor -/

/-- The value that predictor `pr` gives pixel `(x, y)`: `Pred` in a direction (42_a9ll_intra.md R147, R150-R152), `Ref` at
the pixel (43_a9ll_inter.md R181), `Ref` at the vector (R183). -/
def State.predValue (s : State) (pr : Predictor) (x y : Nat) : Half :=
  match pr with
  | .dir d =>
    if inside s.fw s.fh (x + (offsetOf d).1) (y + (offsetOf d).2) 1 1 then
      s.frame.at (x + (offsetOf d).1).toNat (y + (offsetOf d).2).toNat
    else 0
  | .ref => s.ref.pix.at x y
  | .refMv => s.ref.pix.at (x + s.mv.x).toNat (y + s.mv.y).toNat

/-- What the predictor reads may be read: a usable reference, and a vector that stays inside it. -/
def State.predReady (s : State) (pr : Predictor) (x y : Nat) : Bool :=
  match pr with
  | .dir _ => true
  | .ref => s.refUsable
  | .refMv => s.has [.mv] && s.refUsable && inside s.fw s.fh (x + s.mv.x) (y + s.mv.y) 1 1

/-- The mask bit of the pixel that `SEQ` names, if P8 gives it one (42_a9ll_intra.md R148). -/
def State.maskHere (s : State) : Option Bool := (s.cfg.maskBit[s.seq.p]?).map fun i => s.mask.getLsbD i.val

/-- The sequencer stands at a pixel of a tile inside the image, and its mask bit is `set`. -/
def State.pixelStands (s : State) (pr : Predictor) (k : TileKind) (set : Bool) : Bool :=
  decide (s.seq.stage = .pixel pr k) && s.has [.dims, .mask] && decide (s.seq.p ≤ 15) && s.tileFits k &&
  decide (s.maskHere = some set)

/-! ## The XOR operand of a depth-2 value -/

/-- The operand that P14 says a table entry is XORed with (45_w2_depth2.md R223, log 2): a constant, the value just before
the write position, the value at the distance, or an implementation's own. -/
def State.xorOperand (s : State) : XorBase → Half
  | .const v => v
  | .previous => le16 (Store.get s.ibuf (s.ipos - 2)) (Store.get s.ibuf (s.ipos - 1))
  | .atDistance =>
    le16 (Store.get s.ibuf (s.ipos - s.dist))
      (if s.dist = 1 then Store.get s.ibuf (s.ipos - 1) else Store.get s.ibuf (s.ipos + 1 - s.dist))
  | .impl id => Config.xorBaseFn id s.ibuf s.ipos s.dist

/-- The bytes that operand is made of lie in the buffer, before the write position (R225). -/
def State.xorReady (s : State) : XorBase → Bool
  | .previous => decide (2 ≤ s.ipos)
  | .atDistance => decide (1 ≤ s.dist) && decide (s.dist ≤ s.ipos)
  | _ => true

/-! ## What changes in the frame store -/

/-- Pixel `(x, y)` becomes `v` and no other pixel changes. -/
def PixelWritten (s t : State) (x y : Nat) (v : Half) : Prop :=
  t.frame.at x y = v ∧ ∀ x' y', x' < 65536 → ¬ (x' = x ∧ y' = y) → t.frame.at x' y' = s.frame.at x' y'

/-- Every pixel of the `w x h` rectangle at `(x0, y0)` takes the value `f` gives its column and row, and no other pixel
changes. -/
def RectWritten (s t : State) (x0 y0 w h : Nat) (f : Nat → Nat → Half) : Prop :=
  (∀ c r, c < w → r < h → t.frame.at (x0 + c) (y0 + r) = f c r) ∧
  ∀ x y, x < 65536 → ¬ (x0 ≤ x ∧ x < x0 + w ∧ y0 ≤ y ∧ y < y0 + h) → t.frame.at x y = s.frame.at x y

/-! ## Where the sequencer goes next (10_state.md R31)

The rules write `SEQ.t` with the step to a tile or macroblock, `SEQ.s` with the step to a sub-block, `SEQ.p` with the step to
a pixel.  That the inner indices become 0 with an outer step, and that `SEQ.s` counts the cells of an edge macroblock, is the
model's choice (log 19). -/

/-- The frame is complete. -/
def State.seqComplete (s : State) : Seq := { s.seq with unit := .complete, stage := .complete }

/-- `SEQ` after an intra tile: the next tile in raster order (42_a9ll_intra.md R145). -/
def State.seqNextTile (s : State) : Seq :=
  if s.seq.t + 1 < (s.fw / 4) * (s.fh / 4) then { s.seq with t := s.seq.t + 1, s := 0, p := 0, stage := .tile }
  else s.seqComplete

/-- `SEQ` after a macroblock: the next macroblock in raster order (43_a9ll_inter.md R170). -/
def State.seqNextMb (s : State) : Seq :=
  if s.seq.t + 1 < mbAcross s.fw * mbAcross s.fh then
    { s.seq with t := s.seq.t + 1, s := 0, p := 0, stage := .mb }
  else s.seqComplete

/-- `SEQ` after a sub-block or cell (R176, R177, R187). -/
def State.seqNextSub (s : State) (k : SubKind) : Seq :=
  match subAfter k s.fw s.fh s.seq.t s.seq.s with
  | some i => { s.seq with s := i, p := 0, stage := .sub k }
  | none => s.seqNextMb

/-- `SEQ` after a tile. -/
def State.seqAfter (s : State) : TileKind → Seq
  | .frame => s.seqNextTile
  | .within k => s.seqNextSub k

/-- `SEQ` after pixel `p` of a tile (42_a9ll_intra.md R149). -/
def State.seqAfterPixel (s : State) (k : TileKind) : Seq :=
  if s.seq.p < 15 then { s.seq with p := s.seq.p + 1 } else s.seqAfter k

/-- The state after a mode of `n` bits and a mask have been read: the pixel loop of the tile starts (42_a9ll_intra.md
R148, R149). -/
def State.opened (s : State) (pr : Predictor) (k : TileKind) (mask : Half) (n : Nat) : State :=
  State.mark { s with
    bit1 := s.bit1.after n
    a9 := s.a9.after s.a9map.maskc 2
    mask := mask
    seq := { s.seq with p := 0, stage := .pixel pr k } } .mask

/-! ## What a raised error leaves -/

/-- `t` is what `raise e` leaves of a DECODE that had reached `s` (46_orchestrator.md R257, 60_exceptions.md R266):
`STATUS` holds the code and DONE; `REF`, `CFG`, the packet and the host's queue are as they were; nothing is said of `F`,
`OUT` and the output buffer (R267). -/
def Failed (s t : State) (e : Err) : Prop :=
  t.status = { phase := .done, code := errCode e } ∧ t.seq.stage = .idle ∧ t.ref = s.ref ∧ t.cfg = s.cfg ∧
  t.pkt = s.pkt ∧ t.len = s.len ∧ t.queue = s.queue

/-- An outcome that raises `e`. -/
def Raises (o : Host.Outcome State Fault Refusal) (s : State) (e : Err) : Prop := ∃ t, o = .next t ∧ Failed s t e

/-! ## The invariant -/

/-- `a` implies `b`. -/
def imp (a b : Bool) : Bool := !a || b

/-- The place of a header step in the order of 40_header.md R118. -/
def hdrRank : HdrStep → Nat
  | .len => 0
  | .magic => 1
  | .version => 2
  | .rawType => 3
  | .flagsAB => 4
  | .dims => 5
  | .flagsCD => 6
  | .alphaPresent => 7
  | .alpha => 8
  | .anim => 9
  | .first => 10
  | .scale => 11
  | .size => 12
  | .index => 13
  | .xval => 14
  | .dataEnd => 15
  | .qpGate => 16

/-- The header size of R112. -/
def sizeOfHeader (h : Header) : Nat := 12 + (if h.alphaField then 4 else 0) + (if h.animated then 8 else 0)

/-- What the header front end has established once the steps of rank below `r` have run (R100-R118). -/
def State.headerUpTo (s : State) (r : Nat) : Bool :=
  imp (decide (1 ≤ r)) (decide (12 ≤ s.len)) &&
  imp (decide (3 ≤ r)) (s.has [.version]) &&
  imp (decide (4 ≤ r)) (s.has [.rawType]) &&
  imp (decide (5 ≤ r)) (s.has [.flagsAB]) &&
  imp (decide (6 ≤ r)) (s.has [.dims] && s.hdr.w != 0 && s.hdr.h != 0) &&
  imp (decide (7 ≤ r)) (s.has [.flagsCD]) &&
  imp (decide (8 ≤ r)) (s.has [.alphaField] && s.hdr.alphaField == (s.hdr.transparency || s.hdr.animated)) &&
  imp (decide (9 ≤ r) && s.hdr.alphaField) (s.has [.alphaRaw] && imp s.hdr.legacy (s.has [.alphaBytes])) &&
  imp (decide (10 ≤ r) && s.hdr.animated) (s.has [.anim]) &&
  imp (decide (11 ≤ r) && s.hdr.animated) (s.has [.isFirst]) &&
  imp (decide (12 ≤ r) && s.hdr.alphaField) (s.has [.alphaBytes]) &&
  imp (decide (14 ≤ r) && s.hdr.indexColor) (s.has [.colorCount]) &&
  imp (decide (13 ≤ r)) (s.has [.headerSize] && s.hdr.headerSize.toNat == sizeOfHeader s.hdr) &&
  imp (decide (15 ≤ r) && s.hdr.alphaField)
    (decide (s.hdr.headerSize.toNat + s.hdr.alphaBytes.toNat ≤ s.len)) &&
  imp (decide (16 ≤ r)) (s.has [.dataEnd] && decide (s.hdr.dataEnd ≤ s.len)) &&
  imp (decide (17 ≤ r)) (s.has [.qpGate])

/-- A header step that is "taken when" a condition holds is next only then (R108-R111, R114). -/
def stepTaken (h : Header) : HdrStep → Bool
  | .alpha => h.alphaField
  | .anim => h.animated
  | .scale => h.alphaField && !h.legacy
  | .index => h.indexColor
  | .xval => h.alphaField
  | _ => true

/-- A bit cursor over the packet stands inside its region (10_state.md R28). -/
def State.bitInside (s : State) (c : BitCursor) : Bool :=
  decide (c.mem = .packet) && decide (c.start ≤ c.stop) && decide (c.stop ≤ s.len) &&
  decide (c.bitpos ≤ 8 * (c.stop - c.start))

/-- A byte cursor stands inside its region, and the region inside its memory (10_state.md R29). -/
def State.byteInside (s : State) (c : ByteCursor) : Bool :=
  decide (c.start ≤ c.pos) && decide (c.pos ≤ c.stop) && s.holds c.mem c.stop

/-- Every physical cursor of a bank stands inside its region. -/
def State.bankInside (s : State) (b : ByteBank) : Bool :=
  s.byteInside b.p0 && s.byteInside b.p1 && s.byteInside b.p2 && s.byteInside b.p3

/-- `RS.A9LL` is built (41_readers.md R141). -/
def State.a9Built (s : State) : Bool :=
  s.has [.rsA9LL] && s.bitInside s.bit1 && s.bitInside s.bit2 && s.bankInside s.a9

/-- An intra frame of whole tiles (42_a9ll_intra.md R145). -/
def State.intraFrame (s : State) : Bool := s.a9Built && wholeTiles s.fw s.fh

/-- An intra frame of partial tiles that P19 decodes (42_a9ll_intra.md R163). -/
def State.partialOk (s : State) : Bool := s.a9Built && s.cfg.intraPartial != .refuse

/-- An inter frame with its reference (43_a9ll_inter.md R192). -/
def State.interFrameOk (s : State) : Bool := s.a9Built && s.refUsable

/-- `SEQ.t` is a tile of the frame. -/
def State.tileValid (s : State) : Bool := decide (s.seq.t < (s.fw / 4) * (s.fh / 4))

/-- `SEQ.t` is a macroblock of the frame. -/
def State.mbValid (s : State) : Bool := decide (s.seq.t < mbAcross s.fw * mbAcross s.fh)

/-- The macroblock's vector has passed the bounds test (R173, R174, R190). -/
def State.mvInside (s : State) : Bool :=
  s.has [.mv] && inside s.fw s.fh ((s.mbAt.1 : Int) + s.mv.x) ((s.mbAt.2 : Int) + s.mv.y) 16 16

/-- The sub-block sequence that runs fits its macroblock (R176, R177, R187). -/
def State.sequenceOk (s : State) : SubKind → Bool
  | .sub3 => s.mbFull && s.mvInside
  | .sub2 => s.mbFull
  | .cells => true

/-- `W2.D1` runs: its reader set is built, and pixels remain (44_w2_depth1.md R200, R203). -/
def State.w2Running (s : State) : Bool :=
  s.has [.rsW2D1, .pixelCount] && s.byteInside s.tab && s.byteInside s.idx && s.byteInside s.lit &&
  decide (s.n = s.fw * s.fh) && decide (s.k < s.n)

/-- `W2.D2` runs: P14 has a value and its reader set is built (45_w2_depth2.md R220). -/
def State.d2Running (s : State) : Bool :=
  s.cfg.d2.isSome && s.has [.rsW2D2, .size, .ibuf, .ipos, .dist] && s.bitInside s.d2b && s.bankInside s.d2

/-- Value `j` of a strip and all after it fit the intermediate buffer (R222, R229). -/
def State.stripFits (s : State) (strip : Strip) (j : Nat) : Bool :=
  decide (j < stripValues strip) && decide (s.ipos + 2 * (stripValues strip - j) ≤ s.size)

/-- What holds at each control point. -/
def State.stageOk (s : State) : Bool :=
  match s.seq.stage with
  | .idle => true
  | .hdr k => s.headerUpTo (hdrRank k) && stepTaken s.hdr k
  | .orchestrate => s.headerUpTo 17
  | .dispatch => s.headerUpTo 17
  | .complete => s.headerUpTo 17
  | .table =>
    s.headerUpTo 17 && decide (s.seq.t = 0) &&
    (if s.seq.unit = .a9llInter then s.interFrameOk && s.mbValid
     else if wholeTiles s.fw s.fh then s.a9Built && s.tileValid else s.partialOk)
  | .partialFrame => s.headerUpTo 17 && s.partialOk && s.has [.dt]
  | .tile => s.headerUpTo 17 && s.intraFrame && s.has [.dt] && s.tileValid
  | .mb => s.headerUpTo 17 && s.interFrameOk && s.has [.dt] && s.mbValid
  | .mvCopy => s.headerUpTo 17 && s.interFrameOk && s.has [.dt] && s.mbValid && s.sequenceOk .sub3
  | .gate k => s.headerUpTo 17 && s.interFrameOk && s.has [.dt] && s.mbValid && s.sequenceOk k
  | .sub k =>
    s.headerUpTo 17 && s.interFrameOk && s.has [.dt] && s.mbValid && s.sequenceOk k &&
    cellVisible s.fw s.fh (s.tileAt (.within k))
  | .pixel pr .frame =>
    s.headerUpTo 17 && s.intraFrame && s.has [.dt, .mask] && s.tileValid &&
    (match pr with | .dir _ => true | _ => false)
  | .pixel pr (.within k) =>
    s.headerUpTo 17 && s.interFrameOk && s.has [.dt, .mask] && s.mbValid && s.sequenceOk k &&
    s.tileFits (.within k) && (match pr with | .dir _ => true | _ => k == .sub3)
  | .w2Index => s.headerUpTo 17 && s.w2Running
  | .w2Sym _ => s.headerUpTo 17 && s.w2Running
  | .d2Strip1 => s.headerUpTo 17 && s.d2Running && decide (16 ≤ s.size)
  | .d2Dist strip j => s.headerUpTo 17 && s.d2Running && s.stripFits strip j
  | .d2Value strip j => s.headerUpTo 17 && s.d2Running && s.stripFits strip j
  | .d2Sel => s.headerUpTo 17 && s.d2Running && decide (s.ipos + 16 ≤ s.size)
  | .d2Body _ => s.headerUpTo 17 && s.d2Running && decide (s.ipos + 16 ≤ s.size)
  | .d2Tail => s.headerUpTo 17 && s.d2Running && decide (s.ipos < s.size) && decide (s.size < s.ipos + 16)

/-- The invariant of every run: the parameters are admissible, the memories canonical, `STATUS.phase` is BUSY exactly
while a DECODE runs (10_state.md R22), `SEQ.s` and `SEQ.p` are in 0..15 (R31), `DT` has 511 entries (R30), and what holds
at the control point holds. -/
def State.inv (s : State) : Bool :=
  s.cfg.wf && s.canonical && (decide (s.status.phase = .busy) == decide (s.seq.stage ≠ .idle)) &&
  decide (s.seq.s ≤ 15) && decide (s.seq.p ≤ 15) && decide (s.dt.length = 511) && s.stageOk

end Sys2Proof.Machine
end

