-- ==== Sys2Proof/Certificates/Slice0/Obligations.lean ====
section
/-! DEFINITION. The statements for the provers.  Each docstring names the rules of spec/ it formalises.  "Everything else
is unchanged" is said as: the new state with the named fields put back to their old values IS the old state; what happens
to the frame store and to `IBUF` is said read by read. -/

open Sys2Proof Sys2Proof.Machine

/-! ## Encoding -/

/-- 30_encoding.md R70-R88: decoding the reads of an instruction of a format, whatever follows them, gives it back. -/
def Obligations.DecodeOfEncode : Prop :=
  ∀ (f : Format) (i : Instr) (rest : Streams), f.admits i = true → decode f (layReads (encode i) rest) = .ok i

/-- 30_encoding.md R88: what the decoder answers is an instruction of the format, and the streams begin with exactly the
reads of its encoding. -/
def Obligations.DecodedStreams : Prop :=
  ∀ (f : Format) (st : Streams) (i : Instr), decode f st = .ok i →
    f.admits i = true ∧ ∃ rest, layReads (encode i) rest = st

/-- Words written out from 30_encoding.md R75, R76, R78, R83 and R84. -/
def Obligations.SpecWordsDecode : Prop :=
  decode .tile2 { bit1 := [false, true], maskc := [0xD0, 0xFF] } = .ok (.tile2Dir1 0xFFD0) ∧
  decode (.pixel false) { bit2 := [false, false, true], bit1 := [true, true] } = .ok (.pixRes1 3) ∧
  decode .mb16 { bit1 := [true, false, false, false, true, true, true, true, true, true, true,
    true, false, false, false, false, true, true] } = .ok (.mbMv 0x7F 0x43) ∧
  decode .value { idx := [0xFF, 0xFF, 0x03] } = .ok (.value 513) ∧
  decode (.w2Sym 0) { lit := [0xAA, 0xBB, 0xCC, 0xDD] } = .ok (.w2Lit 0xDDCCBBAA)

/-! ## One step -/

/-- A step runs the instruction that the decoder reads from the bits under the cursors; a host command leaves the queue
first (log 3, log 4). -/
def Obligations.StepRunsDecoded : Prop :=
  ∀ (s : State) (f : Format) (st : Streams) (i : Instr),
    s.seq.stage ≠ .orchestrate → s.seq.stage ≠ .complete → (s.seq.stage = .idle → s.queue ≠ []) →
    s.format = .ok f → s.streams f = .ok st → decode f st = .ok i →
    step s = exec i s.issue ∧
    s.issue = (if s.seq.stage = .idle then { s with queue := s.queue.tail } else s)

/-- A symbol that the decoder rejects ends the DECODE with the rejection's status (41_readers.md R131, R134, 40_header.md
R101, 46_orchestrator.md R253, 45_w2_depth2.md R226). -/
def Obligations.StepOfRejected : Prop :=
  ∀ (s : State) (f : Format) (st : Streams) (r : Reject),
    s.seq.stage ≠ .orchestrate → s.seq.stage ≠ .complete → s.seq.stage ≠ .idle →
    s.format = .ok f → s.streams f = .ok st → decode f st = .error r →
    Raises (step s) s r.err

/-- 30_encoding.md R77, R78, R81, R82: the delta table, the macroblock codes, the gate, the `SUB2` symbols and the literals
of a cell. -/
def BlockOperands (s : State) : Prop :=
  (s.seq.stage = .table → s.has [.flagsAB] = true →
    (s.hdr.dynamicTable = false → step s = exec .dtConst s) ∧
    (s.hdr.dynamicTable = true → s.bytesReady .tabc 1536 = true →
      step s = exec (.dtab ((List.range 512).map fun j => s.byteUnder (s.a9.get s.a9map.tabc) j)
        ((List.range 512).map fun j => s.halfUnder (s.a9.get s.a9map.tabc) (512 + 2 * j))) s)) ∧
  (s.seq.stage = .mb → s.has [.dims] = true → s.mbFull = true →
    (s.codeUnder .bit1 [false] = true → step s = exec .mbSub2 s) ∧
    (s.codeUnder .bit1 [true, true] = true → step s = exec .mbRefCopy s) ∧
    (s.codeUnder .bit1 [true, false, true] = true → step s = exec .mbMvZero s)) ∧
  (s.seq.stage = .mb → s.has [.dims] = true → s.mbFull = false →
    (s.codeUnder .bit1 [true] = true → step s = exec .embSkip1 s) ∧
    (s.codeUnder .bit1 [false] = true → step s = exec .embCells s)) ∧
  (s.seq.stage = .mvCopy →
    (s.codeUnder .bit1 [true] = true → step s = exec .mbMcCopy s) ∧
    (s.codeUnder .bit1 [false] = true → step s = exec .mbMcSub s)) ∧
  (∀ k, s.seq.stage = .gate k → step s = exec .gate s) ∧
  (s.sub2Next = true →
    (s.bytesReady .maskc 2 = true →
      (s.codeUnder .bit1 [false, false] = true → step s = exec (.s2Dir0 (s.halfUnder (s.a9.get s.a9map.maskc) 0)) s) ∧
      (s.codeUnder .bit1 [false, true] = true → step s = exec (.s2Dir1 (s.halfUnder (s.a9.get s.a9map.maskc) 0)) s) ∧
      (s.codeUnder .bit1 [true, false] = true → step s = exec (.s2Dir2 (s.halfUnder (s.a9.get s.a9map.maskc) 0)) s)) ∧
    (s.bytesReady .maskc 0 = true → s.codeUnder .bit1 [true, true] = true → step s = exec .s2Edge s)) ∧
  (∀ count, s.seq.stage = .sub .cells → s.has [.dims] = true → s.subAt.1 < s.fw → s.subAt.2 < s.fh →
    s.tileFits (.within .cells) = false → count = min 4 (s.fw - s.subAt.1) * min 4 (s.fh - s.subAt.2) →
    s.bytesReady .edgelit (2 * count) = true →
    step s = exec (.embLitCell ((List.range count).map fun j => s.halfUnder (s.a9.get s.a9map.edgelit) (2 * j))) s)

/-- 30_encoding.md R83, R84: an index value from `IDX`, and a run length from the cursor that P13 names. -/
def ValueOperands (s : State) : Prop :=
  ∀ v,
    (s.seq.stage = .w2Index → s.bytesReady .idx (v / 255 + 1) = true → s.valueUnder s.idx v = true →
      step s = exec (.value v) s) ∧
    (∀ idx, 1 ≤ idx → s.seq.stage = .w2Sym idx → s.bytesReady .run (v / 255 + 1) = true →
      s.valueUnder (match s.cfg.w2Layout.runFrom with | .idx => s.idx | .lit => s.lit) v = true →
      step s = exec (.w2Run idx v) s)

/-- 30_encoding.md R85, 45_w2_depth2.md R222-R231: the depth-2 symbols, with the codes and the cursors that P14 names; a
selector code that P14 gives to no strip raises `INVALID_DATA` (R226). -/
def DepthTwoOperands (s : State) (d : D2Coding) : Prop :=
  (s.seq.stage = .d2Strip1 → s.bytesReady .d2l 4 = true →
    step s = exec (.d2Strip1 (s.wordUnder (s.d2.get d.litCur))) s) ∧
  (∀ strip j flag, s.seq.stage = .d2Dist strip j → s.codeUnder .d2b [flag] = true →
    match if flag then d.distIfSet else d.distIfClear with
      | .keep => step s = exec (.d2Dist flag .keep) s
      | .byte => s.bytesReady .d2dist 1 = true →
        step s = exec (.d2Dist flag (.byte (s.byteUnder (s.d2.get d.distCur) 0))) s
      | .half => s.bytesReady .d2dist 2 = true →
        step s = exec (.d2Dist flag (.half (s.halfUnder (s.d2.get d.distCur) 0))) s) ∧
  (∀ strip j code kind, s.seq.stage = .d2Value strip j → (kindCode d strip j).spells code kind = true →
    s.codeUnder .d2b code = true →
    match kind with
      | .backref => step s = exec (.d2Value code .backref) s
      | .xor => s.bytesReady .d2key 1 = true →
        step s = exec (.d2Value code (.xor (s.byteUnder (s.d2.get d.keyCur) 0))) s
      | .lit => s.bytesReady .d2l 2 = true →
        step s = exec (.d2Value code (.lit (s.halfUnder (s.d2.get d.litCur) 0))) s) ∧
  (∀ code kind, s.seq.stage = .d2Sel → d.selector.spells code kind = true → s.codeUnder .d2b code = true →
    match kind with
      | some k => step s = exec (.d2StripSel code k) s
      | none => Raises (step s) s .invalidData) ∧
  (s.seq.stage = .d2Body .verb → s.bytesReady .d2l 16 = true →
    step s = exec (.d2Verb ((List.range 16).map fun j => s.byteUnder (s.d2.get d.litCur) j)) s) ∧
  (s.seq.stage = .d2Body .back → step s = exec .d2Back s) ∧
  (s.seq.stage = .d2Body .strip2 →
    (∀ m c, d.maskInBits = true → s.bitsReady .d2b 8 = true → s.d2b.read (s.mem s.d2b.mem) 8 = .ok (m, c) →
      step s = exec (.d2Strip2 true (BitVec.ofNat 8 m)) s) ∧
    (d.maskInBits = false → s.bytesReady .d2mask 1 = true →
      step s = exec (.d2Strip2 false (s.byteUnder (s.d2.get d.maskCur) 0)) s)) ∧
  (s.seq.stage = .d2Tail → s.has [.size, .ipos] = true → s.bytesReady .d2l (s.size - s.ipos) = true →
    step s = exec (.d2Tail ((List.range (s.size - s.ipos)).map fun j => s.byteUnder (s.d2.get d.litCur) j)) s)

/-- 30_encoding.md R75-R78, R80-R85: the symbol that a step runs, and its operands, from the bits and bytes under the
cursors: the mode and the mask of a tile and of a `SUB3` or `SUB2` sub-block, the class and the index or literal of a pixel,
the macroblock codes, the skip and copy bits, the fields of a vector, the literals of a cell, the delta table, an index
value, a literal pair, a run length, and the depth-2 symbols.  The form of P14 is the model's (log 2). -/
def Obligations.SymbolOperands : Prop :=
  (∀ s : State, BlockOperands s ∧ ValueOperands s ∧ ∀ d, s.cfg.d2 = some d → DepthTwoOperands s d) ∧
  ∀ (s : State) (m mask : Nat) (c : BitCursor),
    (s.seq.stage = .tile → s.bitsReady .bit1 2 = true → s.bytesReady .maskc (if m = 3 then 0 else 2) = true →
      s.bit1.read (s.mem s.bit1.mem) 2 = .ok (m, c) →
      mask = (Memory.u16 (s.mem (s.a9.get s.a9map.maskc).mem) (s.a9.get s.a9map.maskc).pos).toNat →
      step s = exec (match m with
        | 0 => .tile2Dir0 (BitVec.ofNat 16 mask)
        | 1 => .tile2Dir1 (BitVec.ofNat 16 mask)
        | 2 => .tile2Dir2 (BitVec.ofNat 16 mask)
        | _ => .tile2Edge) s) ∧
    (s.seq.stage = .sub .sub3 → s.bitsReady .bit1 3 = true →
      s.bytesReady .maskc (if m = 3 ∨ m = 5 ∨ m = 7 then 0 else 2) = true →
      s.bit1.read (s.mem s.bit1.mem) 3 = .ok (m, c) →
      mask = (Memory.u16 (s.mem (s.a9.get s.a9map.maskc).mem) (s.a9.get s.a9map.maskc).pos).toNat →
      step s = exec (match m with
        | 0 => .s3Dir0 (BitVec.ofNat 16 mask)
        | 1 => .s3Dir1 (BitVec.ofNat 16 mask)
        | 2 => .s3Dir2 (BitVec.ofNat 16 mask)
        | 3 => .s3Edge
        | 4 => .s3ResRef (BitVec.ofNat 16 mask)
        | 5 => .s3CopyRef
        | 6 => .s3ResMv (BitVec.ofNat 16 mask)
        | _ => .s3CopyMv) s) ∧
    (∀ (pr : Predictor) (k : TileKind), s.pixelStands pr k true = true → step s = exec .pixCopy s) ∧
    (∀ (pr : Predictor) (k : TileKind) (i : Nat) (c' : BitCursor), s.pixelStands pr k false = true →
      s.bitsReady .bit2 3 = true → s.bit2.read (s.mem s.bit2.mem) 3 = .ok (m, c) →
      (m = 7 → s.bytesReady .litc 2 = true →
        step s = exec (.pixLit
          (Memory.u16 (s.mem (s.a9.get s.a9map.litc).mem) (s.a9.get s.a9map.litc).pos)) s) ∧
      (m ≤ 6 → s.bitsReady .bit1 (m + 1) = true → s.bit1.read (s.mem s.bit1.mem) (m + 1) = .ok (i, c') →
        step s = exec (match m with
          | 0 => .pixRes0 (BitVec.ofNat 1 i)
          | 1 => .pixRes1 (BitVec.ofNat 2 i)
          | 2 => .pixRes2 (BitVec.ofNat 3 i)
          | 3 => .pixRes3 (BitVec.ofNat 4 i)
          | 4 => .pixRes4 (BitVec.ofNat 5 i)
          | 5 => .pixRes5 (BitVec.ofNat 6 i)
          | _ => .pixRes6 (BitVec.ofNat 7 i)) s)) ∧
    (∀ (a b : Nat) (c' c'' : BitCursor), s.seq.stage = .mb → s.has [.dims] = true → s.mbFull = true →
      s.bitsReady .bit1 18 = true → s.bit1.bits (s.mem s.bit1.mem) 3 = [true, false, false] →
      (s.bit1.after 3).read (s.mem s.bit1.mem) 8 = .ok (a, c') →
      (s.bit1.after 11).read (s.mem s.bit1.mem) 7 = .ok (b, c'') →
      step s = exec (.mbMv (BitVec.ofNat 8 a) (BitVec.ofNat 7 b)) s) ∧
    (s.seq.stage = .w2Sym 0 → s.bytesReady .lit 4 = true →
      step s = exec (.w2Lit (Memory.u32 (s.mem s.lit.mem) s.lit.pos)) s)

/-- 60_exceptions.md R281: between DECODEs the block is idle and keeps `REF` and `STATUS`.  That it keeps its whole state,
and that it idles when its queue is empty, is the model's choice (log 3). -/
def Obligations.IdleStep : Prop :=
  ∀ s : State, s.seq.stage = .idle → s.queue = [] → step s = .next s

/-- 45_w2_depth2.md R222-R231: a selector or kind code that ends too early, and a literal, a distance, a key, a mask,
verbatim or tail bytes of which too few are left, end the DECODE with `INVALID_DATA`. -/
def DepthTwoOverruns (s : State) (d : D2Coding) : Prop :=
  (s.seq.stage = .d2Strip1 → s.bytesShort .d2l 4 = true → Raises (step s) s .invalidData) ∧
  (∀ strip j, s.seq.stage = .d2Dist strip j →
    (s.bitsShort .d2b 1 = true → Raises (step s) s .invalidData) ∧
    (∀ flag, s.codeUnder .d2b [flag] = true →
      match if flag then d.distIfSet else d.distIfClear with
        | .keep => True
        | .byte => s.bytesShort .d2dist 1 = true → Raises (step s) s .invalidData
        | .half => s.bytesShort .d2dist 2 = true → Raises (step s) s .invalidData)) ∧
  (∀ strip j code kind, s.seq.stage = .d2Value strip j → (kindCode d strip j).spells code kind = true →
    (s.codeCut .d2b code = true → Raises (step s) s .invalidData) ∧
    (s.codeUnder .d2b code = true →
      match kind with
        | .backref => True
        | .xor => s.bytesShort .d2key 1 = true → Raises (step s) s .invalidData
        | .lit => s.bytesShort .d2l 2 = true → Raises (step s) s .invalidData)) ∧
  (∀ code kind, s.seq.stage = .d2Sel → d.selector.spells code kind = true → s.codeCut .d2b code = true →
    Raises (step s) s .invalidData) ∧
  (s.seq.stage = .d2Body .verb → s.bytesShort .d2l 16 = true → Raises (step s) s .invalidData) ∧
  (s.seq.stage = .d2Body .strip2 →
    (d.maskInBits = true → s.bitsShort .d2b 8 = true → Raises (step s) s .invalidData) ∧
    (d.maskInBits = false → s.bytesShort .d2mask 1 = true → Raises (step s) s .invalidData)) ∧
  (s.seq.stage = .d2Tail → s.has [.size, .ipos] = true → s.bytesShort .d2l (s.size - s.ipos) = true →
    Raises (step s) s .invalidData)

/-- 41_readers.md R131, R134, 42_a9ll_intra.md R146, R148, R155, R157, R161, 43_a9ll_inter.md R171, R174, R176, R185, R186,
R188, 44_w2_depth1.md R202, R204, R205: a mode, a mask, a class, an index, a literal, a vector, a table or a run length that
its cursor cannot deliver ends the DECODE with `INVALID_DATA`; so do the codes, literals, distances, keys and masks of depth 2
(45_w2_depth2.md R222-R231, in the model's form of P14, log 2). -/
def Obligations.SymbolOverrun : Prop :=
  (∀ (s : State) (d : D2Coding), s.cfg.d2 = some d → DepthTwoOverruns s d) ∧
  (∀ s : State,
    (s.seq.stage = .tile → s.bitsShort .bit1 2 = true → s.bytesReady .maskc 0 = true →
      Raises (step s) s .invalidData) ∧
    (s.seq.stage = .sub .sub3 → s.bitsShort .bit1 3 = true → s.bytesReady .maskc 0 = true →
      Raises (step s) s .invalidData) ∧
    (s.sub2Next = true → s.bitsShort .bit1 2 = true → s.bytesReady .maskc 0 = true →
      Raises (step s) s .invalidData) ∧
    (s.seq.stage = .mb → s.has [.dims] = true → s.bitsShort .bit1 1 = true → Raises (step s) s .invalidData) ∧
    (s.seq.stage = .mvCopy → s.bitsShort .bit1 1 = true → Raises (step s) s .invalidData) ∧
    (s.seq.stage = .w2Index → s.bytesReady .idx 1 = true → s.bytesAllFF .idx = true →
      Raises (step s) s .invalidData) ∧
    (s.seq.stage = .w2Sym 0 → s.bytesShort .lit 4 = true → Raises (step s) s .invalidData) ∧
    (∀ idx, 1 ≤ idx → s.seq.stage = .w2Sym idx → s.bytesAllFF .run = true → Raises (step s) s .invalidData)) ∧
  (∀ (s : State) (m : Nat) (c : BitCursor), s.bytesShort .maskc 2 = true →
    (s.seq.stage = .tile → s.bitsReady .bit1 2 = true → s.bit1.read (s.mem s.bit1.mem) 2 = .ok (m, c) → m ≠ 3 →
      Raises (step s) s .invalidData) ∧
    (s.seq.stage = .sub .sub3 → s.bitsReady .bit1 3 = true → s.bit1.read (s.mem s.bit1.mem) 3 = .ok (m, c) →
      m ≠ 3 → m ≠ 5 → m ≠ 7 → Raises (step s) s .invalidData) ∧
    (s.sub2Next = true → s.bitsReady .bit1 2 = true → s.bit1.read (s.mem s.bit1.mem) 2 = .ok (m, c) → m ≠ 3 →
      Raises (step s) s .invalidData)) ∧
  (∀ (s : State) (pr : Predictor) (k : TileKind), s.pixelStands pr k false = true →
    (s.bitsShort .bit2 3 = true → s.bitsReady .bit1 0 = true → Raises (step s) s .invalidData) ∧
    (∀ (m : Nat) (c : BitCursor), s.bitsReady .bit2 3 = true → s.bit2.read (s.mem s.bit2.mem) 3 = .ok (m, c) →
      (m = 7 → s.bytesShort .litc 2 = true → Raises (step s) s .invalidData) ∧
      (m ≠ 7 → s.bitsShort .bit1 (m + 1) = true → Raises (step s) s .invalidData))) ∧
  (∀ s : State, s.seq.stage = .mb → s.has [.dims] = true → s.mbFull = true →
    (s.codeUnder .bit1 [true] = true → s.bitsShort .bit1 2 = true → Raises (step s) s .invalidData) ∧
    (s.codeUnder .bit1 [true, false] = true → s.bitsShort .bit1 3 = true → Raises (step s) s .invalidData) ∧
    (s.codeUnder .bit1 [true, false, false] = true → s.bitsShort .bit1 18 = true → Raises (step s) s .invalidData)) ∧
  (∀ s : State, s.seq.stage = .sub .cells → s.has [.dims] = true → s.subAt.1 < s.fw → s.subAt.2 < s.fh →
    s.tileFits (.within .cells) = false →
    s.bytesShort .edgelit (2 * (min 4 (s.fw - s.subAt.1) * min 4 (s.fh - s.subAt.2))) = true →
    Raises (step s) s .invalidData) ∧
  ∀ s : State, s.seq.stage = .table → s.has [.flagsAB] = true → s.hdr.dynamicTable = true →
    s.bytesShort .tabc 1536 = true → Raises (step s) s .invalidData

/-! ## The host's commands -/

/-- 46_orchestrator.md R241, R245: DECODE takes the packet and starts the header front end with no working register
written; while BUSY it is refused (R242).  The model's own: a packet above P17 is refused (log 10); the buffer's size comes
with the command and the queue is the host's (log 3); and `OUT` and the output buffer, also the buffer newly provided with
this DECODE, keep their old content, which the spec calls unspecified (DESIGN CHOICE, log 17). -/
def Obligations.DecodeCommand : Prop :=
  ∀ (packet : List Byte) (stride cap : Nat) (s : State),
    (s.status.phase = .busy → exec (.decode packet stride cap) s = .refused .busy) ∧
    (s.status.phase ≠ .busy → s.cfg.maxPacket < packet.length →
      exec (.decode packet stride cap) s = .refused .packetTooLong) ∧
    (s.status.phase ≠ .busy → packet.length ≤ s.cfg.maxPacket →
      ∃ t, exec (.decode packet stride cap) s = .next t ∧
        t.status = { phase := .busy, code := s.status.code } ∧ t.seq.unit = .hdr ∧ t.seq.stage = .hdr .len ∧
        t.written = [] ∧ t.len = packet.length ∧ t.stride = stride ∧ t.cap = cap ∧
        (∀ a, Store.get t.pkt a = packet.getD a 0) ∧
        { t with status := s.status, seq := s.seq, written := s.written, pkt := s.pkt, len := s.len,
                 stride := s.stride, cap := s.cap } = s)

/-- 70_reset_and_hazards.md R285, R286: RESET gives IDLE, OK and no reference, keeps `CFG`, and is refused while BUSY; the
packet, the output buffer and the queue are the host's (log 3). -/
def Obligations.ResetCommand : Prop :=
  ∀ s : State,
    (s.status.phase = .busy → exec .reset s = .refused .busy) ∧
    (s.status.phase ≠ .busy →
      ∃ t, exec .reset s = .next t ∧ t.status = { phase := .idle, code := .ok } ∧ t.ref.valid = false ∧
        t.seq.stage = .idle ∧ t.cfg = s.cfg ∧ t.pkt = s.pkt ∧ t.len = s.len ∧ t.outBuf = s.outBuf ∧
        t.queue = s.queue)

/-! ## The header front end -/

/-- 40_header.md R100, R101. -/
def Obligations.HdrLenMagic : Prop :=
  ∀ s : State,
    (s.seq.stage = .hdr .len → 12 ≤ s.len → exec .hdrLen s = .next (s.goto (.hdr .magic))) ∧
    (s.seq.stage = .hdr .len → s.len < 12 → Raises (exec .hdrLen s) s .invalidData) ∧
    (s.seq.stage = .hdr .magic → 2 ≤ s.len → Store.get s.pkt 0 = 0x51 → Store.get s.pkt 1 = 0x4D →
      exec .hdrMagic s = .next (s.goto (.hdr .version))) ∧
    (s.seq.stage = .hdr .magic → 2 ≤ s.len → (Store.get s.pkt 0 ≠ 0x51 ∨ Store.get s.pkt 1 ≠ 0x4D) →
      Raises (exec .hdrMagic s) s .invalidData ∧ Raises (step s) s .invalidData)

/-- 40_header.md R102, R103: the version and the raw type are `P[2]` and `P[3]`; a version up to 0x0B is legacy; a raw
type outside P2 raises `UNSUPPORTED`. -/
def Obligations.HdrVersionRawType : Prop :=
  ∀ (s : State) (b : Byte),
    (s.seq.stage = .hdr .version →
      exec (.hdrVersion b) s =
        .next ((s.setHdr .version { s.hdr with version := b, legacy := decide (b.toNat ≤ 11) }).goto
          (.hdr .rawType))) ∧
    (s.seq.stage = .hdr .rawType → (b = 0 ∨ b = s.cfg.rawType2) →
      exec (.hdrRawType b) s = .next ((s.setHdr .rawType { s.hdr with rawType := b }).goto (.hdr .flagsAB))) ∧
    (s.seq.stage = .hdr .rawType → b ≠ 0 → b ≠ s.cfg.rawType2 →
      Raises (exec (.hdrRawType b) s) s .unsupported) ∧
    (s.seq.stage = .hdr .version → 3 ≤ s.len → step s = exec (.hdrVersion (Store.get s.pkt 2)) s) ∧
    (s.seq.stage = .hdr .rawType → 4 ≤ s.len → step s = exec (.hdrRawType (Store.get s.pkt 3)) s)

/-- 40_header.md R104, R106 under the test configuration's flag layout (92_eei_decisions.md P1): where every flag lies, and
that a legacy header has no dynamic table. -/
def Obligations.HdrFlagsTC0 : Prop :=
  ∀ (s : State) (a b : Byte),
    s.cfg.abLegacy = Config.tc0.abLegacy → s.cfg.abModern = Config.tc0.abModern →
    s.cfg.cdLegacy = Config.tc0.cdLegacy → s.cfg.cdModern = Config.tc0.cdModern → s.has [.version] = true →
    (s.seq.stage = .hdr .flagsAB →
      exec (.hdrFlagsAB a b) s =
        .next ((s.setHdr .flagsAB { s.hdr with
          flagsA := a
          flagsB := b
          transparency := a.getLsbD 0
          animated := a.getLsbD 1
          extraException := a.getLsbD 2
          dynamicTable := !s.hdr.legacy && a.getLsbD 3
          encoderMode := (if s.hdr.legacy then b &&& 0x0F else b &&& 0x07).setWidth 16
          depth := ((b >>> 4) &&& 0x03).setWidth 16 }).goto (.hdr .dims))) ∧
    (s.seq.stage = .hdr .flagsCD →
      exec (.hdrFlagsCD a b) s =
        .next ((s.setHdr .flagsCD { s.hdr with
          flagsC := a
          flagsD := b
          indexColor := a.getLsbD 0
          ninePatch := a.getLsbD 1
          gray := a.getLsbD 2
          premultiplied := a.getLsbD 3
          isOpaque := a.getLsbD 4
          notAlphaComposited := a.getLsbD 5 }).goto (.hdr .alphaPresent))) ∧
    (s.seq.stage = .hdr .flagsAB → 6 ≤ s.len →
      step s = exec (.hdrFlagsAB (Store.get s.pkt 4) (Store.get s.pkt 5)) s) ∧
    (s.seq.stage = .hdr .flagsCD → 12 ≤ s.len →
      step s = exec (.hdrFlagsCD (Store.get s.pkt 10) (Store.get s.pkt 11)) s)

/-- 40_header.md R105: the dimensions are the two words at 6 and 8; a zero one raises `INVALID_DATA`. -/
def Obligations.HdrDims : Prop :=
  ∀ (s : State) (w h : Half), s.seq.stage = .hdr .dims →
    (w ≠ 0 → h ≠ 0 →
      exec (.hdrDims w h) s = .next ((s.setHdr .dims { s.hdr with w := w, h := h }).goto (.hdr .flagsCD))) ∧
    (w = 0 ∨ h = 0 → Raises (exec (.hdrDims w h) s) s .invalidData) ∧
    (10 ≤ s.len → step s = exec (.hdrDims (Memory.u16 s.pkt 6) (Memory.u16 s.pkt 8)) s)

/-- 40_header.md R107, R108: the alpha field is present for a frame with transparency or animation; a legacy offset is
never scaled; a truncated one raises `INVALID_DATA` (R113). -/
def Obligations.HdrAlphaLegacy : Prop :=
  ∀ (s : State) (raw : Word),
    (s.seq.stage = .hdr .alphaPresent → s.has [.flagsAB] = true →
      exec .hdrAlphaPresent s =
        .next ((s.setHdr .alphaField { s.hdr with alphaField := s.hdr.transparency || s.hdr.animated }).goto
          (if s.hdr.transparency || s.hdr.animated then .hdr .alpha else .hdr .first))) ∧
    (s.seq.stage = .hdr .alpha → s.has [.alphaField, .version, .flagsAB] = true → s.hdr.alphaField = true →
      s.hdr.legacy = true →
      (16 ≤ s.len →
        ∃ t, exec (.hdrAlphaLegacy raw) s = .next t ∧
          t.hdr = { s.hdr with alphaRaw := raw, alphaBytes := raw } ∧
          t.seq = { s.seq with stage := if s.hdr.animated then .hdr .anim else .hdr .first } ∧
          t.has [.alphaRaw, .alphaBytes] = true ∧
          { t with hdr := s.hdr, seq := s.seq, written := s.written } = s) ∧
      (s.len < 16 → Raises (exec (.hdrAlphaLegacy raw) s) s .invalidData ∧ Raises (step s) s .invalidData) ∧
      (16 ≤ s.len → step s = exec (.hdrAlphaLegacy (Memory.u32 s.pkt 12)) s))

/-- 40_header.md R109: the modern offset is 16 bits, is scaled by 4 once the animation fields are known, but not in a later
frame of an animation; the pad is ignored. -/
def Obligations.HdrAlphaModern : Prop :=
  ∀ (s : State) (raw : Half) (mode pad : Byte),
    (s.seq.stage = .hdr .alpha → s.has [.alphaField, .version, .flagsAB] = true → s.hdr.alphaField = true →
      s.hdr.legacy = false →
      (16 ≤ s.len →
        ∃ t, exec (.hdrAlphaModern raw mode pad) s = .next t ∧ t.hdr.alphaRaw.toNat = raw.toNat ∧
          t.hdr.alphaMode = mode ∧
          { t.hdr with alphaRaw := s.hdr.alphaRaw, alphaMode := s.hdr.alphaMode } = s.hdr ∧
          t.seq = { s.seq with stage := if s.hdr.animated then .hdr .anim else .hdr .first } ∧
          { t with hdr := s.hdr, seq := s.seq, written := s.written } = s) ∧
      (s.len < 16 →
        Raises (exec (.hdrAlphaModern raw mode pad) s) s .invalidData ∧ Raises (step s) s .invalidData) ∧
      (16 ≤ s.len →
        step s = exec (.hdrAlphaModern (Memory.u16 s.pkt 12) (Store.get s.pkt 14) (Store.get s.pkt 15)) s)) ∧
    (s.seq.stage = .hdr .scale → 16 ≤ s.len →
      step s = exec (.hdrAlphaModern (Memory.u16 s.pkt 12) (Store.get s.pkt 14) (Store.get s.pkt 15)) s) ∧
    (s.seq.stage = .hdr .scale → s.has [.alphaRaw, .flagsAB] = true → s.hdr.alphaRaw.toNat < 65536 →
      (s.hdr.animated = true → s.has [.isFirst] = true) →
      ∃ t, exec (.hdrAlphaModern raw mode pad) s = .next t ∧
        t.hdr.alphaBytes.toNat =
          (if s.hdr.animated = true ∧ s.hdr.isFirst = false then s.hdr.alphaRaw.toNat
           else 4 * s.hdr.alphaRaw.toNat) ∧
        { t.hdr with alphaBytes := s.hdr.alphaBytes } = s.hdr ∧ t.seq = { s.seq with stage := .hdr .size } ∧
        { t with hdr := s.hdr, seq := s.seq, written := s.written } = s)

/-- 40_header.md R110, R113: the animation fields are the words at 16, 18, 20 and the byte at 22; a truncated header raises
`INVALID_DATA`. -/
def Obligations.HdrAnim : Prop :=
  ∀ (s : State) (total current delay : Half) (noRepeat pad : Byte),
    s.seq.stage = .hdr .anim → s.has [.flagsAB] = true → s.hdr.animated = true →
    (24 ≤ s.len →
      exec (.hdrAnim total current delay noRepeat pad) s =
        .next ((s.setHdr .anim { s.hdr with
          totalFrames := total
          currentFrame := current
          delayMs := delay
          noRepeat := noRepeat }).goto (.hdr .first))) ∧
    (s.len < 24 →
      Raises (exec (.hdrAnim total current delay noRepeat pad) s) s .invalidData ∧ Raises (step s) s .invalidData) ∧
    (24 ≤ s.len →
      step s = exec (.hdrAnim (Memory.u16 s.pkt 16) (Memory.u16 s.pkt 18) (Memory.u16 s.pkt 20) (Store.get s.pkt 22)
        (Store.get s.pkt 23)) s)

/-- 40_header.md R111 with parameter P15: the colour count is kept; where the data region then starts is P15's choice, and
the header size without index-colour words (log 8). -/
def Obligations.HdrIndex : Prop :=
  (∀ (s : State) (pad count : Word),
    s.seq.stage = .hdr .index → s.has [.flagsCD, .headerSize, .alphaField] = true → s.hdr.indexColor = true →
    (s.hdr.ninePatch = false → s.hdr.headerSize.toNat + 4 ≤ s.len →
      ∃ t, exec (.hdrIndex none count) s = .next t ∧
        t.hdr = { s.hdr with
          colorCount := count
          dataStart := if s.cfg.indexColor.dataAfterWords then s.hdr.headerSize.toNat + 4
                       else s.hdr.headerSize.toNat } ∧
        t.seq = { s.seq with stage := if s.hdr.alphaField then .hdr .xval else .hdr .dataEnd } ∧
        { t with hdr := s.hdr, seq := s.seq, written := s.written } = s) ∧
    (s.hdr.ninePatch = true → s.hdr.headerSize.toNat + 8 ≤ s.len →
      ∃ t, exec (.hdrIndex (some pad) count) s = .next t ∧
        t.hdr = { s.hdr with
          colorCount := count
          dataStart := if s.cfg.indexColor.dataAfterWords then s.hdr.headerSize.toNat + 8
                       else s.hdr.headerSize.toNat } ∧
        t.seq = { s.seq with stage := if s.hdr.alphaField then .hdr .xval else .hdr .dataEnd } ∧
        { t with hdr := s.hdr, seq := s.seq, written := s.written } = s) ∧
    (s.hdr.ninePatch = false → s.len < s.hdr.headerSize.toNat + 4 →
      Raises (exec (.hdrIndex none count) s) s .invalidData) ∧
    (s.hdr.ninePatch = true → s.len < s.hdr.headerSize.toNat + 8 →
      Raises (exec (.hdrIndex (some pad) count) s) s .invalidData) ∧
    (s.hdr.ninePatch = false → s.hdr.headerSize.toNat + 4 ≤ s.len →
      step s = exec (.hdrIndex none (Memory.u32 s.pkt s.hdr.headerSize.toNat)) s) ∧
    (s.hdr.ninePatch = true → s.hdr.headerSize.toNat + 8 ≤ s.len →
      step s = exec (.hdrIndex (some (Memory.u32 s.pkt s.hdr.headerSize.toNat))
        (Memory.u32 s.pkt (s.hdr.headerSize.toNat + 4))) s)) ∧
  ∀ s : State, s.seq.stage = .hdr .size → s.has [.alphaField, .flagsAB, .flagsCD] = true →
    ∃ t, exec .hdrSize s = .next t ∧ t.hdr.dataStart = t.hdr.headerSize.toNat

/-- 40_header.md R112, R114, R115, each with the step that R118 puts next (the data start that `HDR.SIZE` also sets is the
model's, log 8). -/
def Obligations.HdrSizeXvalDataEnd : Prop :=
  ∀ s : State,
    (s.seq.stage = .hdr .size → s.has [.alphaField, .flagsAB, .flagsCD] = true →
      ∃ t, exec .hdrSize s = .next t ∧
        t.hdr.headerSize.toNat = 12 + (if s.hdr.alphaField then 4 else 0) + (if s.hdr.animated then 8 else 0) ∧
        { t.hdr with headerSize := s.hdr.headerSize, dataStart := s.hdr.dataStart } = s.hdr ∧
        t.seq = { s.seq with stage :=
          if s.hdr.indexColor then .hdr .index else if s.hdr.alphaField then .hdr .xval else .hdr .dataEnd } ∧
        t.has [.headerSize] = true ∧
        { t with hdr := s.hdr, seq := s.seq, written := s.written } = s) ∧
    (s.seq.stage = .hdr .xval → s.has [.alphaField, .headerSize, .alphaBytes] = true → s.hdr.alphaField = true →
      (s.hdr.headerSize.toNat + s.hdr.alphaBytes.toNat ≤ s.len →
        exec .hdrXval s = .next (s.goto (.hdr .dataEnd))) ∧
      (s.len < s.hdr.headerSize.toNat + s.hdr.alphaBytes.toNat → Raises (exec .hdrXval s) s .invalidData)) ∧
    (s.seq.stage = .hdr .dataEnd → s.has [.alphaField, .headerSize] = true →
      (s.hdr.alphaField = true → s.has [.alphaBytes] = true) →
      exec .hdrDataEnd s =
        .next ((s.setHdr .dataEnd { s.hdr with
          dataEnd := if s.hdr.alphaField then s.hdr.headerSize.toNat + s.hdr.alphaBytes.toNat else s.len }).goto
          (.hdr .qpGate)))

/-- 40_header.md R116, R117 under the test configuration's P9 and P12: the gate is open exactly when `flagsD` is 0, and a
frame is first exactly when its number is 0; `is_first` is written for an animated frame only (log 11). -/
def Obligations.HdrQpFirstTC0 : Prop :=
  ∀ s : State, s.cfg.qpGate = Config.tc0.qpGate → s.cfg.firstFrame = Config.tc0.firstFrame →
    (s.seq.stage = .hdr .qpGate → s.has [.flagsAB, .flagsCD] = true →
      exec .hdrQpGate s =
        .next ((s.setHdr .qpGate { s.hdr with qpGate := decide (s.hdr.flagsD = 0) }).goto .orchestrate)) ∧
    (s.seq.stage = .hdr .first → s.has [.flagsAB, .alphaField, .version, .anim] = true → s.hdr.animated = true →
      exec .hdrFirst s =
        .next ((s.setHdr .isFirst { s.hdr with isFirst := decide (s.hdr.currentFrame = 0) }).goto
          (if s.hdr.alphaField && !s.hdr.legacy then .hdr .scale else .hdr .size))) ∧
    (s.seq.stage = .hdr .first → s.has [.flagsAB, .alphaField, .version] = true → s.hdr.animated = false →
      exec .hdrFirst s = .next (s.goto (if s.hdr.alphaField && !s.hdr.legacy then .hdr .scale else .hdr .size)))

/-! ## The orchestrator -/

/-- 46_orchestrator.md R244, R259: after the header front end, a frame above P16 raises `ALLOC_FAIL`; a stride below
`2*W` or a buffer below `(H-1)*stride + 2*W` bytes is refused (R243, 70_reset_and_hazards.md R287, at the point log 9
says), and an index-colour frame under P15 = REFUSE too; else the dispatch is next. -/
def Obligations.OrchestrateStep : Prop :=
  ∀ s : State, s.seq.stage = .orchestrate → s.has [.dims, .flagsCD] = true →
    (s.cfg.maxPixels < s.fw * s.fh → Raises (step s) s .allocFail) ∧
    (s.fw * s.fh ≤ s.cfg.maxPixels →
      (s.stride < 2 * s.fw → step s = .refused .strideTooSmall) ∧
      (2 * s.fw ≤ s.stride → s.cap < (s.fh - 1) * s.stride + 2 * s.fw → step s = .refused .bufferTooSmall) ∧
      (2 * s.fw ≤ s.stride → (s.fh - 1) * s.stride + 2 * s.fw ≤ s.cap →
        (s.hdr.indexColor = true → s.cfg.indexColor = .refuse → step s = .refused .indexColor) ∧
        (s.hdr.indexColor = false ∨ s.cfg.indexColor ≠ .refuse → step s = .next (s.goto .dispatch))))

/-- 46_orchestrator.md R247, R252, R253: `extra_exception` ends the DECODE with `UNSUPPORTED` whatever the family; so do
an encoder mode that is not P3 and a depth outside 1 and 2, of a frame that is not animated.  `is_first` is written, and
asked for, only when the frame is animated (log 11). -/
def Obligations.DispatchRejects : Prop :=
  ∀ s : State, s.seq.stage = .dispatch → s.has [.flagsAB] = true →
    (s.hdr.animated = true → s.has [.isFirst] = true) →
    (s.hdr.extraException = true →
      Raises (exec .dispatchExtra s) s .unsupported ∧ Raises (step s) s .unsupported) ∧
    (s.hdr.extraException = false → s.hdr.animated = false → s.hdr.encoderMode ≠ s.cfg.w2Mode →
      Raises (exec .dispatchMode s) s .unsupported ∧ Raises (step s) s .unsupported) ∧
    (s.hdr.extraException = false → s.hdr.animated = false → s.hdr.encoderMode = s.cfg.w2Mode →
      s.hdr.depth ≠ 1 → s.hdr.depth ≠ 2 → Raises (step s) s .unsupported)

/-- 46_orchestrator.md R246, R248, 41_readers.md R141: the first frame of an animation, of whole tiles or of a size that P19
decodes, starts the intra decoder on a frame store of zeros, with the layout's cursors at their starts, `REF` unread; a
layout that fails its checks raises `INVALID_DATA`; a size that is no multiple of 4 is refused under P19 = REFUSE
(42_a9ll_intra.md R163).  Under another P19 its frame procedure gives every pixel of the frame, or `INVALID_DATA` (R145,
log 2, log 4).  R248 writes `SEQ.unit` only: the zeros of `SEQ.t`, `SEQ.s` and `SEQ.p` are the model's choice (log 19). -/
def Obligations.DispatchIntraStarts : Prop :=
  (∀ s : State, s.seq.stage = .dispatch → s.has [.flagsAB, .isFirst, .dims, .headerSize, .dataEnd] = true →
    s.hdr.extraException = false → s.hdr.animated = true → s.hdr.isFirst = true →
    (s.fw % 4 = 0 ∧ s.fh % 4 = 0 ∨ s.cfg.intraPartial ≠ .refuse → s.hdr.dataStart + 8 ≤ s.len →
      a9Ok s.a9Regions s.hdr.headerSize.toNat s.hdr.dataEnd s.len = true →
      ∃ t, exec .dispatchIntra s = .next t ∧ (∀ x y, t.frame.at x y = 0) ∧
        t.seq = { unit := .a9llIntra, t := 0, s := 0, p := 0, stage := .table } ∧
        t.bit1 = bitCursorOver s.a9Regions.bit1 .packet ∧ t.bit2 = bitCursorOver s.a9Regions.bit2 .packet ∧
        t.a9 = { p0 := byteCursorOver s.a9Regions.byte0 .packet, p1 := byteCursorOver s.a9Regions.byte1 .packet,
                 p2 := byteCursorOver s.a9Regions.byte2 .packet, p3 := byteCursorOver s.a9Regions.byte3 .packet } ∧
        t.a9map = s.a9Regions.map ∧ t.has [.rsA9LL] = true ∧
        { t with frame := s.frame, seq := s.seq, bit1 := s.bit1, bit2 := s.bit2, a9 := s.a9, a9map := s.a9map,
                 written := s.written } = s) ∧
    (s.fw % 4 = 0 ∧ s.fh % 4 = 0 ∨ s.cfg.intraPartial ≠ .refuse →
      a9Ok s.a9Regions s.hdr.headerSize.toNat s.hdr.dataEnd s.len = false →
      Raises (exec .dispatchIntra s) s .invalidData) ∧
    (s.fw % 4 ≠ 0 ∨ s.fh % 4 ≠ 0 → s.cfg.intraPartial = .refuse →
      exec .dispatchIntra s = .refused .intraPartial ∧ step s = .refused .intraPartial)) ∧
  ∀ (s : State) (id : Nat), s.seq.stage = .partialFrame → s.has [.dims, .rsA9LL, .dt, .dataEnd] = true →
    s.cfg.intraPartial = .impl id →
    (∀ f, Config.partialIntraFn id s.colourPlane s.hdr.dataEnd s.dt s.fw s.fh = some f →
      ∃ t, step s = .next t ∧ RectWritten s t 0 0 s.fw s.fh f ∧ t.seq = s.seqComplete ∧
        { t with frame := s.frame, seq := s.seq } = s) ∧
    (Config.partialIntraFn id s.colourPlane s.hdr.dataEnd s.dt s.fw s.fh = none → Raises (step s) s .invalidData)

/-- 46_orchestrator.md R246, R250, R251: a later frame of an animation needs a reference of its own size, or raises
`INVALID_DATA` before any reader set is built; with it, the inter decoder starts on a frame store of P11's value.
R250 writes `SEQ.unit` only: the zeros of `SEQ.t`, `SEQ.s` and `SEQ.p` are the model's choice (log 19). -/
def Obligations.DispatchInterStarts : Prop :=
  ∀ s : State, s.seq.stage = .dispatch →
    s.has [.flagsAB, .isFirst, .dims, .headerSize, .dataEnd] = true →
    s.hdr.extraException = false → s.hdr.animated = true → s.hdr.isFirst = false →
    (s.refUsable = false → Raises (exec .dispatchInter s) s .invalidData ∧ Raises (step s) s .invalidData) ∧
    (s.refUsable = true → s.hdr.dataStart + 8 ≤ s.len →
      a9Ok s.a9Regions s.hdr.headerSize.toNat s.hdr.dataEnd s.len = true →
      ∃ t, exec .dispatchInter s = .next t ∧
        (∀ x y, x < s.fw → y < s.fh → t.frame.at x y =
          match s.cfg.interInit with
            | .const v => v
            | .impl id => Config.interInitFn id x y) ∧
        t.seq = { unit := .a9llInter, t := 0, s := 0, p := 0, stage := .table } ∧
        t.bit1 = bitCursorOver s.a9Regions.bit1 .packet ∧ t.bit2 = bitCursorOver s.a9Regions.bit2 .packet ∧
        t.a9 = { p0 := byteCursorOver s.a9Regions.byte0 .packet, p1 := byteCursorOver s.a9Regions.byte1 .packet,
                 p2 := byteCursorOver s.a9Regions.byte2 .packet, p3 := byteCursorOver s.a9Regions.byte3 .packet } ∧
        t.a9map = s.a9Regions.map ∧ t.has [.rsA9LL] = true ∧
        { t with frame := s.frame, seq := s.seq, bit1 := s.bit1, bit2 := s.bit2, a9 := s.a9, a9map := s.a9map,
                 written := s.written } = s) ∧
    (s.refUsable = true → a9Ok s.a9Regions s.hdr.headerSize.toNat s.hdr.dataEnd s.len = false →
      Raises (exec .dispatchInter s) s .invalidData)

/-- 46_orchestrator.md R253, 41_readers.md R142 with the test configuration's layout, 44_w2_depth1.md R200: a depth-1
frame starts with `F` zero, `K = 0`, `N = W*H` and the three regions behind the 16-byte header; a header or a region that
does not fit raises `INVALID_DATA`.  R253 writes `SEQ.unit` only: the zero of `SEQ.t`, which 10_state.md R31 gives no
meaning in a W2 unit, is the model's choice (log 19). -/
def Obligations.DispatchW2D1Starts : Prop :=
  ∀ (s : State) (b e n il ll : Nat), s.seq.stage = .dispatch →
    s.has [.flagsAB, .dims, .headerSize, .dataEnd] = true →
    s.hdr.extraException = false → s.hdr.animated = false → s.hdr.encoderMode = s.cfg.w2Mode → s.hdr.depth = 1 →
    s.hdr.w ≠ 0 → s.hdr.h ≠ 0 → s.hdr.dataEnd ≤ s.len → s.cfg.w2Layout = Config.tc0.w2Layout →
    b = s.hdr.dataStart → e = s.hdr.dataEnd → n = (Memory.u32 s.pkt b).toNat →
    il = (Memory.u32 s.pkt (b + 4)).toNat → ll = (Memory.u32 s.pkt (b + 8)).toNat →
    (b + 16 + 4 * n + il + ll ≤ e →
      ∃ t, exec .dispatchW2D1 s = .next t ∧ (∀ x y, t.frame.at x y = 0) ∧ t.k = 0 ∧ t.n = s.fw * s.fh ∧
        t.tab = { mem := .packet, start := b + 16, stop := b + 16 + 4 * n, pos := b + 16 } ∧
        t.idx = { mem := .packet, start := b + 16 + 4 * n, stop := b + 16 + 4 * n + il, pos := b + 16 + 4 * n } ∧
        t.lit = { mem := .packet, start := b + 16 + 4 * n + il, stop := b + 16 + 4 * n + il + ll,
                  pos := b + 16 + 4 * n + il } ∧
        t.seq.t = 0 ∧ t.seq.stage = (if il = 0 then .complete else .w2Index) ∧ t.has [.rsW2D1, .pixelCount] = true ∧
        { t with frame := s.frame, seq := s.seq, k := s.k, n := s.n, tab := s.tab, idx := s.idx, lit := s.lit,
                 written := s.written } = s) ∧
    (e < b + 16 + 4 * n + il + ll → Raises (exec .dispatchW2D1 s) s .invalidData)

/-- 46_orchestrator.md R253, 41_readers.md R143, 45_w2_depth2.md R220, R221, R232: a depth-2 frame builds the reader set
that P14 says, or raises `INVALID_DATA` when its layout fails; then an `IBUF` of `S` zero bytes, and the first strip is next
when `S >= 16`, else the tail; an `S` above P17 raises `ALLOC_FAIL`; with `S = 0` the nested pass starts at once, and its
header does not fit, whatever P13 is; without a value for P14 the frame is refused (93_implementation_defined.md).  R253
writes `SEQ.unit` only: the zeros of `SEQ.t`, `SEQ.s` and `SEQ.p` are the model's choice (log 19). -/
def Obligations.DispatchW2D2Starts : Prop :=
  ∀ (s : State) (d : D2Coding) (g : D2Regions), s.seq.stage = .dispatch →
    s.has [.flagsAB, .headerSize, .dataEnd] = true →
    s.hdr.extraException = false → s.hdr.animated = false → s.hdr.encoderMode = s.cfg.w2Mode → s.hdr.depth = 2 →
    (s.cfg.d2 = none → exec .dispatchW2D2 s = .refused .noD2Coding) ∧
    (s.cfg.d2 = some d → s.d2Regions d = none → Raises (exec .dispatchW2D2 s) s .invalidData) ∧
    (s.cfg.d2 = some d → s.d2Regions d = some g →
      (d2Ok g s.hdr.headerSize.toNat s.hdr.dataEnd = false → Raises (exec .dispatchW2D2 s) s .invalidData) ∧
      (d2Ok g s.hdr.headerSize.toNat s.hdr.dataEnd = true →
        (s.cfg.maxPacket < g.size → Raises (exec .dispatchW2D2 s) s .allocFail) ∧
        (g.size ≤ s.cfg.maxPacket → 0 < g.size →
          ∃ t, exec .dispatchW2D2 s = .next t ∧ t.size = g.size ∧ (∀ a, Store.get t.ibuf a = 0) ∧ t.ipos = 0 ∧
            t.dist = d.dist0 ∧ (∀ x y, t.frame.at x y = 0) ∧ t.d2b = bitCursorOver g.bits .packet ∧
            t.d2 = { p0 := byteCursorOver g.byte0 .packet, p1 := byteCursorOver g.byte1 .packet,
                     p2 := byteCursorOver g.byte2 .packet, p3 := byteCursorOver g.byte3 .packet } ∧
            t.has [.rsW2D2, .size, .ibuf, .ipos, .dist] = true ∧
            t.seq = { unit := .w2d2, t := 0, s := 0, p := 0,
                      stage := if 16 ≤ g.size then .d2Strip1 else .d2Tail } ∧
            { t with frame := s.frame, seq := s.seq, size := s.size, ibuf := s.ibuf, ipos := s.ipos, dist := s.dist,
                     d2b := s.d2b, d2 := s.d2, written := s.written } = s) ∧
        (g.size = 0 → Raises (exec .dispatchW2D2 s) s .invalidData)))

/-- 46_orchestrator.md R254, R255, 20_memory.md R53: completion makes the frame the reference, writes `OUT` and every
pixel of the host's buffer in P18's byte order, leaves every other byte of the buffer alone, and ends the DECODE with
`OK`, in one step.  It needs the header registers that this frame has: `is_first` and the animation fields of an animated
frame, `alpha_bytes` with transparency.  The pixels are the decoded samples, and for an index-colour frame what P15 makes of
them (log 14). -/
def Obligations.CompletionStep : Prop :=
  ∀ s : State, s.seq.stage = .complete → s.has (.dims :: (outNeeds s.hdr ++ meaningNeeds s.hdr)) = true →
    2 * s.fw ≤ s.stride → (s.fh - 1) * s.stride + 2 * s.fw ≤ s.cap →
    ∃ t, step s = .next t ∧ t.status = { phase := .done, code := .ok } ∧
      t.ref = { valid := true, w := s.hdr.w, h := s.hdr.h, pix := t.frame } ∧
      (s.hdr.indexColor = false → t.frame = s.frame) ∧
      (∀ x y, x < s.fw → y < s.fh → t.frame.at x y =
        match s.hdr.indexColor, s.cfg.indexColor with
          | true, .decode _ (.impl id) =>
            Config.indexPixelFn id s.colourPlane s.hdr.dataEnd s.hdr.colorCount s.frame x y
          | _, _ => s.frame.at x y) ∧
      t.out.w = s.hdr.w ∧ t.out.h = s.hdr.h ∧ t.out.transparency = s.hdr.transparency ∧
      t.out.animated = s.hdr.animated ∧
      t.out.keyFrame = !(s.hdr.animated && !s.hdr.isFirst) ∧
      t.out.alphaOffset = (if s.hdr.transparency then s.hdr.alphaBytes else 0) ∧
      t.out.totalFrames = (if s.hdr.animated then s.hdr.totalFrames else 0) ∧
      t.out.currentFrame = (if s.hdr.animated then s.hdr.currentFrame else 0) ∧
      t.out.delayMs = (if s.hdr.animated then s.hdr.delayMs else 0) ∧
      t.out.noRepeat = (if s.hdr.animated then s.hdr.noRepeat else 0) ∧
      (∀ x y, x < s.fw → y < s.fh →
        Store.find t.outBuf (y * s.stride + 2 * x) =
          some (match s.cfg.endian with
            | .little => (t.frame.at x y).extractLsb' 0 8
            | .big => (t.frame.at x y).extractLsb' 8 8) ∧
        Store.find t.outBuf (y * s.stride + 2 * x + 1) =
          some (match s.cfg.endian with
            | .little => (t.frame.at x y).extractLsb' 8 8
            | .big => (t.frame.at x y).extractLsb' 0 8)) ∧
      (∀ a, (∀ x y, x < s.fw → y < s.fh → a ≠ y * s.stride + 2 * x ∧ a ≠ y * s.stride + 2 * x + 1) →
        Store.find t.outBuf a = Store.find s.outBuf a) ∧
      t.seq.stage = .idle ∧
      { t with status := s.status, frame := s.frame, ref := s.ref, out := s.out, outBuf := s.outBuf, seq := s.seq } = s

/-! ## Readers -/

/-- 41_readers.md R128, R130, R131, R132: `BitRead` delivers the next bits most significant first, bit 7 of a byte before
bit 0, or raises `INVALID_DATA`. -/
def Obligations.BitReadLaw : Prop :=
  ∀ (c : BitCursor) (m : Memory) (n : Nat),
    (n ≤ 8 * (c.stop - c.start) - c.bitpos →
      ∃ v, c.read m n = .ok (v, { c with bitpos := c.bitpos + n }) ∧ v < 2 ^ n ∧
        ∀ j, j < n → v.testBit (n - 1 - j) =
          (Store.get m (c.start + (c.bitpos + j) / 8)).getLsbD (7 - (c.bitpos + j) % 8)) ∧
    (8 * (c.stop - c.start) - c.bitpos < n → c.read m n = .error (.raise .invalidData))

/-- 41_readers.md R134, R136, R137, R138: byte reads are little-endian and whole or not at all. -/
def Obligations.ByteReadLaw : Prop :=
  (∀ (c : ByteCursor) (m : Memory) (n : Nat),
    (n ≤ c.stop - c.pos →
      ∃ bs, c.read m n = .ok (bs, { c with pos := c.pos + n }) ∧ bs.length = n ∧
        ∀ j, j < n → bs[j]? = some (Store.get m (c.pos + j))) ∧
    (c.stop - c.pos < n → c.read m n = .error (.raise .invalidData))) ∧
  (∀ b0 b1 : Byte, (le16 b0 b1).toNat = b0.toNat + 256 * b1.toNat) ∧
  (∀ b0 b1 b2 b3 : Byte,
    (le32 b0 b1 b2 b3).toNat = b0.toNat + 2 ^ 8 * b1.toNat + 2 ^ 16 * b2.toNat + 2 ^ 24 * b3.toNat)

/-! ## A9LL intra -/

/-- 42_a9ll_intra.md R147, 43_a9ll_inter.md R190: `Pred` is the frame's pixel inside the image and 0 outside; `INSIDE` is
the four inequalities in the integers. -/
def Obligations.PredInside : Prop :=
  (∀ (s : State) (x y : Int), s.has [.dims] = true →
    (0 ≤ x → x < s.fw → 0 ≤ y → y < s.fh → s.pred x y = .ok (s.frame.at x.toNat y.toNat)) ∧
    (x < 0 ∨ (s.fw : Int) ≤ x ∨ y < 0 ∨ (s.fh : Int) ≤ y → s.pred x y = .ok 0)) ∧
  ∀ (fw fh : Nat) (x y : Int) (w h : Nat),
    inside fw fh x y w h = true ↔ 0 ≤ x ∧ x + w ≤ fw ∧ 0 ≤ y ∧ y + h ≤ fh

/-- 42_a9ll_intra.md R146, R148, R149-R152, R165: a directional intra tile reads its mode and its mask, and its pixel loop
starts at position 0 with the direction P7 gives the mode. -/
def Obligations.IntraTileModes : Prop :=
  ∀ (s : State) (mask : Half), s.seq.stage = .tile → s.bitsReady .bit1 2 = true → s.bytesReady .maskc 2 = true →
    exec (.tile2Dir0 mask) s = .next (s.opened (.dir s.cfg.dirMap.mode0) .frame mask 2) ∧
    exec (.tile2Dir1 mask) s = .next (s.opened (.dir s.cfg.dirMap.mode1) .frame mask 2) ∧
    exec (.tile2Dir2 mask) s = .next (s.opened (.dir s.cfg.dirMap.mode2) .frame mask 2)

/-- 42_a9ll_intra.md R153, 43_a9ll_inter.md R180, R185: the edge mode replicates the column to the tile's left, and at the
image's left edge writes nothing; it reads its mode bits only.  That `SEQ.s` and `SEQ.p` become 0 with the step to the
next tile or macroblock, `SEQ.p` with the step to the next sub-block, and that `SEQ.s` counts the cells of an edge
macroblock, is the model's choice (log 19). -/
def Obligations.EdgeMode : Prop :=
  ∀ (s : State) (k : TileKind) (n : Nat) (i : Instr),
    (s.seq.stage = .tile ∧ k = .frame ∧ n = 2 ∧ i = .tile2Edge ∨
      s.seq.stage = .sub .sub3 ∧ k = .within .sub3 ∧ n = 3 ∧ i = .s3Edge ∨
      s.seq.stage = .sub .sub2 ∧ k = .within .sub2 ∧ n = 2 ∧ i = .s2Edge ∨
      s.seq.stage = .sub .cells ∧ k = .within .cells ∧ n = 2 ∧ i = .s2Edge) →
    s.has [.dims] = true → s.bitsReady .bit1 n = true → s.tileFits k = true →
    ∃ t, exec i s = .next t ∧
      ((s.tileAt k).1 = 0 → t.frame = s.frame) ∧
      (0 < (s.tileAt k).1 →
        RectWritten s t (s.tileAt k).1 (s.tileAt k).2 4 4
          fun _ r => s.frame.at ((s.tileAt k).1 - 1) ((s.tileAt k).2 + r)) ∧
      t.bit1 = s.bit1.after n ∧ t.seq = s.seqAfter k ∧
      { t with frame := s.frame, bit1 := s.bit1, seq := s.seq } = s

/-- 42_a9ll_intra.md R154, 43_a9ll_inter.md R181, R183: a pixel whose mask bit is set takes its predictor's value, and no
cursor is read.  What `SEQ.s` and `SEQ.p` hold after the last pixel of the tile is the model's choice (log 19). -/
def Obligations.PixelCopy : Prop :=
  ∀ (s : State) (pr : Predictor) (k : TileKind), s.pixelStands pr k true = true →
    s.predReady pr (s.pixelAt k).1 (s.pixelAt k).2 = true →
    ∃ t, exec .pixCopy s = .next t ∧
      PixelWritten s t (s.pixelAt k).1 (s.pixelAt k).2 (s.predValue pr (s.pixelAt k).1 (s.pixelAt k).2) ∧
      t.seq = s.seqAfterPixel k ∧ { t with frame := s.frame, seq := s.seq } = s

/-- What `PIX.RES<c>` with index `i` does: the predictor plus `DT[i + 2^(c+1) - 2]`, mod 2^16. -/
def ResidualWritten (s : State) (pr : Predictor) (k : TileKind) (c i : Nat)
    (o : Host.Outcome State Fault Refusal) : Prop :=
  ∃ t, o = .next t ∧
    PixelWritten s t (s.pixelAt k).1 (s.pixelAt k).2
      (s.predValue pr (s.pixelAt k).1 (s.pixelAt k).2 + s.dt.getD (i + 2 ^ (c + 1) - 2) 0) ∧
    t.bit2 = s.bit2.after 3 ∧ t.bit1 = s.bit1.after (c + 1) ∧ t.seq = s.seqAfterPixel k ∧
    { t with frame := s.frame, bit2 := s.bit2, bit1 := s.bit1, seq := s.seq } = s

/-- 42_a9ll_intra.md R155, R156, R158: the seven residual classes; and R156's table: the address ranges of the classes do
not overlap and cover 0 to 253 with no gap.  What `SEQ.s` and `SEQ.p` hold after the last pixel of the tile is the model's
choice (log 19). -/
def Obligations.PixelResidual : Prop :=
  (∀ (s : State) (pr : Predictor) (k : TileKind), s.pixelStands pr k false = true →
    s.predReady pr (s.pixelAt k).1 (s.pixelAt k).2 = true → s.has [.dt] = true → s.dt.length = 511 →
    s.bitsReady .bit2 3 = true →
    (∀ i : BitVec 1, s.bitsReady .bit1 1 = true → ResidualWritten s pr k 0 i.toNat (exec (.pixRes0 i) s)) ∧
    (∀ i : BitVec 2, s.bitsReady .bit1 2 = true → ResidualWritten s pr k 1 i.toNat (exec (.pixRes1 i) s)) ∧
    (∀ i : BitVec 3, s.bitsReady .bit1 3 = true → ResidualWritten s pr k 2 i.toNat (exec (.pixRes2 i) s)) ∧
    (∀ i : BitVec 4, s.bitsReady .bit1 4 = true → ResidualWritten s pr k 3 i.toNat (exec (.pixRes3 i) s)) ∧
    (∀ i : BitVec 5, s.bitsReady .bit1 5 = true → ResidualWritten s pr k 4 i.toNat (exec (.pixRes4 i) s)) ∧
    (∀ i : BitVec 6, s.bitsReady .bit1 6 = true → ResidualWritten s pr k 5 i.toNat (exec (.pixRes5 i) s)) ∧
    (∀ i : BitVec 7, s.bitsReady .bit1 7 = true → ResidualWritten s pr k 6 i.toNat (exec (.pixRes6 i) s))) ∧
  ∀ a, a ≤ 253 ↔ ∃ c i, c ≤ 6 ∧ i < 2 ^ (c + 1) ∧ deltaAddress c i = a ∧
    ∀ c' i', c' ≤ 6 → i' < 2 ^ (c' + 1) → deltaAddress c' i' = a → c' = c ∧ i' = i

/-- 42_a9ll_intra.md R157: a literal pixel; the predictor is not used.  What `SEQ.s` and `SEQ.p` hold after the last pixel
of the tile is the model's choice (log 19). -/
def Obligations.PixelLiteral : Prop :=
  ∀ (s : State) (pr : Predictor) (k : TileKind) (v : Half), s.pixelStands pr k false = true →
    s.bitsReady .bit2 3 = true → s.bytesReady .litc 2 = true →
    ∃ t, exec (.pixLit v) s = .next t ∧ PixelWritten s t (s.pixelAt k).1 (s.pixelAt k).2 v ∧
      t.bit2 = s.bit2.after 3 ∧ t.a9 = s.a9.after s.a9map.litc 2 ∧ t.seq = s.seqAfterPixel k ∧
      { t with frame := s.frame, bit2 := s.bit2, a9 := s.a9, seq := s.seq } = s

/-- After the table the first macroblock or tile of the frame is next (42_a9ll_intra.md R162), or P19's frame procedure for
an intra frame of partial tiles (R163, log 4). -/
def TableFollowed (s t : State) : Prop :=
  t.seq = { s.seq with stage :=
    if s.seq.unit = .a9llInter then .mb else if s.fw % 4 = 0 ∧ s.fh % 4 = 0 then .tile else .partialFrame }

/-- 42_a9ll_intra.md R160, R161, R162: the dynamic table is the 511 signed magnitudes after the discarded pair 0, the
constant one is P4's by P5; the first tile or macroblock is next. -/
def Obligations.DeltaTables : Prop :=
  ∀ s : State, s.seq.stage = .table →
    (∀ (signs : List Byte) (mags : List Half), signs.length = 512 → mags.length = 512 →
      s.has [.flagsAB, .dims] = true →
      s.hdr.dynamicTable = true → s.bytesReady .tabc 1536 = true →
      ∃ t, exec (.dtab signs mags) s = .next t ∧ t.dt.length = 511 ∧
        (∀ k, k < 511 → t.dt.getD k 0 =
          if signs.getD (k + 1) 0 ≠ 0 then mags.getD (k + 1) 0 else -(mags.getD (k + 1) 0)) ∧
        t.a9 = s.a9.after s.a9map.tabc 1536 ∧ t.has [.dt] = true ∧
        TableFollowed s t ∧
        { t with dt := s.dt, a9 := s.a9, seq := s.seq, written := s.written } = s) ∧
    (s.has [.flagsAB, .version, .dims] = true → s.hdr.dynamicTable = false →
      ∃ t, exec .dtConst s = .next t ∧
        t.dt = (match s.cfg.deltaSelect with
          | .above last => if s.hdr.version.toNat ≤ last.toNat then s.cfg.delta0 else s.cfg.delta1
          | .oneOf versions => if s.hdr.version ∈ versions then s.cfg.delta1 else s.cfg.delta0) ∧
        t.has [.dt] = true ∧
        TableFollowed s t ∧
        { t with dt := s.dt, seq := s.seq, written := s.written } = s)

/-! ## A9LL inter

A frame clause that keeps `MV` says that the symbol does not write it.  What `MV` holds after the macroblock that wrote it,
where 10_state.md R32 calls it undefined, is the model's choice (log 18). -/

/-- 43_a9ll_inter.md R172, R175: the macroblock becomes the 256 reference pixels at the same position, or at the vector;
the next macroblock in raster order is next.  That `SEQ.s` and `SEQ.p` become 0 with that step (log 19), and what `MV` holds in
the next macroblock (log 18), is the model's choice. -/
def Obligations.MacroblockCopies : Prop :=
  ∀ s : State, s.has [.dims] = true → s.mbFull = true → s.refUsable = true →
    (s.seq.stage = .mb → s.bitsReady .bit1 2 = true →
      ∃ t, exec .mbRefCopy s = .next t ∧
        RectWritten s t s.mbAt.1 s.mbAt.2 16 16 (fun c r => s.ref.pix.at (s.mbAt.1 + c) (s.mbAt.2 + r)) ∧
        t.bit1 = s.bit1.after 2 ∧ t.seq = s.seqNextMb ∧
        { t with frame := s.frame, bit1 := s.bit1, seq := s.seq } = s) ∧
    (s.seq.stage = .mvCopy → s.bitsReady .bit1 1 = true → s.mvInside = true →
      ∃ t, exec .mbMcCopy s = .next t ∧
        RectWritten s t s.mbAt.1 s.mbAt.2 16 16
          (fun c r => s.ref.pix.at (((s.mbAt.1 + c : Nat) : Int) + s.mv.x).toNat
            (((s.mbAt.2 + r : Nat) : Int) + s.mv.y).toNat) ∧
        t.bit1 = s.bit1.after 1 ∧ t.seq = s.seqNextMb ∧
        { t with frame := s.frame, bit1 := s.bit1, seq := s.seq } = s)

/-- 43_a9ll_inter.md R173, R174, 30_encoding.md R79, 60_exceptions.md R268: the vector is the fields less their biases, on
the axes P10 says; inside the frame the copy bit is next; outside, the macroblock is skipped: no pixel and no `STATUS`
changes, and the next macroblock is next.  That `MV` still holds the vector in that next macroblock, where 10_state.md R32
calls it undefined, is the model's choice (log 18).  That `SEQ.s` and `SEQ.p` become 0 with the step to the next
macroblock is the model's too (log 19). -/
def Obligations.MacroblockVectors : Prop :=
  ∀ (s : State) (a : BitVec 8) (b : BitVec 7), s.seq.stage = .mb → s.has [.dims] = true → s.mbFull = true →
    (s.bitsReady .bit1 3 = true →
      ∃ t, exec .mbMvZero s = .next t ∧ t.mv = { x := 0, y := 0 } ∧ t.has [.mv] = true ∧
        t.bit1 = s.bit1.after 3 ∧ t.seq = { s.seq with stage := .mvCopy } ∧
        { t with mv := s.mv, bit1 := s.bit1, seq := s.seq, written := s.written } = s) ∧
    (s.bitsReady .bit1 18 = true →
      ∃ t, exec (.mbMv a b) s = .next t ∧
        t.mv = (match s.cfg.mvAxis with
          | .aIsX => { x := (a.toNat : Int) - 127, y := (b.toNat : Int) - 63 }
          | .aIsY => { x := (b.toNat : Int) - 63, y := (a.toNat : Int) - 127 }) ∧
        t.has [.mv] = true ∧ t.bit1 = s.bit1.after 18 ∧
        t.seq = (if 0 ≤ (s.mbAt.1 : Int) + t.mv.x ∧ (s.mbAt.1 : Int) + t.mv.x + 16 ≤ s.fw ∧
            0 ≤ (s.mbAt.2 : Int) + t.mv.y ∧ (s.mbAt.2 : Int) + t.mv.y + 16 ≤ s.fh
          then { s.seq with stage := .mvCopy } else s.seqNextMb) ∧
        { t with mv := s.mv, bit1 := s.bit1, seq := s.seq, written := s.written } = s)

/-- 43_a9ll_inter.md R176, R177, R186: the symbols that open a sub-block sequence read one bit, and the gate is next. -/
def Obligations.SequenceOpeners : Prop :=
  ∀ s : State, s.has [.dims] = true → s.bitsReady .bit1 1 = true →
    (s.seq.stage = .mvCopy → exec .mbMcSub s = .next ({ s with bit1 := s.bit1.after 1 }.goto (.gate .sub3))) ∧
    (s.seq.stage = .mb → s.mbFull = true →
      exec .mbSub2 s = .next ({ s with bit1 := s.bit1.after 1 }.goto (.gate .sub2))) ∧
    (s.seq.stage = .mb → s.mbFull = false →
      exec .embCells s = .next ({ s with bit1 := s.bit1.after 1 }.goto (.gate .cells)) ∧
      Raises (exec .embSkip1 s) s .unsupported)

/-- 43_a9ll_inter.md R178: an open gate starts the sequence at sub-block 0 and reads no bit; a closed one ends the DECODE
with `UNSUPPORTED`.  That `SEQ.p` becomes 0, and that `SEQ.s` counts the cells of an edge macroblock from 0, is the
model's choice (log 19). -/
def Obligations.QpGate : Prop :=
  ∀ (s : State) (k : SubKind), s.seq.stage = .gate k → s.has [.qpGate] = true →
    (s.hdr.qpGate = true → exec .gate s = .next { s with seq := { s.seq with s := 0, p := 0, stage := .sub k } }) ∧
    (s.hdr.qpGate = false → Raises (exec .gate s) s .unsupported)

/-- 43_a9ll_inter.md R179, R181, R183, R185: the sub-block symbols that read a mask: three mode bits in a `SUB3` sequence,
two in a `SUB2` sequence or a whole cell of an edge macroblock. -/
def Obligations.SubBlockModes : Prop :=
  ∀ (s : State) (mask : Half), s.bytesReady .maskc 2 = true →
    (s.seq.stage = .sub .sub3 → s.bitsReady .bit1 3 = true →
      exec (.s3Dir0 mask) s = .next (s.opened (.dir s.cfg.dirMap.mode0) (.within .sub3) mask 3) ∧
      exec (.s3Dir1 mask) s = .next (s.opened (.dir s.cfg.dirMap.mode1) (.within .sub3) mask 3) ∧
      exec (.s3Dir2 mask) s = .next (s.opened (.dir s.cfg.dirMap.mode2) (.within .sub3) mask 3) ∧
      exec (.s3ResRef mask) s = .next (s.opened .ref (.within .sub3) mask 3) ∧
      exec (.s3ResMv mask) s = .next (s.opened .refMv (.within .sub3) mask 3)) ∧
    (s.seq.stage = .sub .sub2 → s.bitsReady .bit1 2 = true →
      exec (.s2Dir0 mask) s = .next (s.opened (.dir s.cfg.dirMap.mode0) (.within .sub2) mask 2) ∧
      exec (.s2Dir1 mask) s = .next (s.opened (.dir s.cfg.dirMap.mode1) (.within .sub2) mask 2) ∧
      exec (.s2Dir2 mask) s = .next (s.opened (.dir s.cfg.dirMap.mode2) (.within .sub2) mask 2)) ∧
    (s.seq.stage = .sub .cells → s.bitsReady .bit1 2 = true → s.has [.dims] = true →
      s.tileFits (.within .cells) = true →
      exec (.s2Dir0 mask) s = .next (s.opened (.dir s.cfg.dirMap.mode0) (.within .cells) mask 2) ∧
      exec (.s2Dir1 mask) s = .next (s.opened (.dir s.cfg.dirMap.mode1) (.within .cells) mask 2) ∧
      exec (.s2Dir2 mask) s = .next (s.opened (.dir s.cfg.dirMap.mode2) (.within .cells) mask 2))

/-- 43_a9ll_inter.md R182, R184: the 4x4 sub-block becomes the reference at the same position, or at the vector; a vector
that leaves the frame skips the sub-block.  What `SEQ.p` holds at the next sub-block, and `SEQ.s` and `SEQ.p` at the next
macroblock, is the model's choice (log 19). -/
def Obligations.SubBlockCopies : Prop :=
  ∀ s : State, s.seq.stage = .sub .sub3 → s.has [.dims, .mv] = true → s.bitsReady .bit1 3 = true →
    s.tileFits (.within .sub3) = true → s.refUsable = true →
    (∃ t, exec .s3CopyRef s = .next t ∧
      RectWritten s t s.subAt.1 s.subAt.2 4 4 (fun c r => s.ref.pix.at (s.subAt.1 + c) (s.subAt.2 + r)) ∧
      t.bit1 = s.bit1.after 3 ∧ t.seq = s.seqNextSub .sub3 ∧
      { t with frame := s.frame, bit1 := s.bit1, seq := s.seq } = s) ∧
    (∃ t, exec .s3CopyMv s = .next t ∧
      (if inside s.fw s.fh ((s.subAt.1 : Int) + s.mv.x) ((s.subAt.2 : Int) + s.mv.y) 4 4 = true then
        RectWritten s t s.subAt.1 s.subAt.2 4 4
          (fun c r => s.ref.pix.at (((s.subAt.1 + c : Nat) : Int) + s.mv.x).toNat
            (((s.subAt.2 + r : Nat) : Int) + s.mv.y).toNat)
       else t.frame = s.frame) ∧
      t.bit1 = s.bit1.after 3 ∧ t.seq = s.seqNextSub .sub3 ∧
      { t with frame := s.frame, bit1 := s.bit1, seq := s.seq } = s)

/-- 43_a9ll_inter.md R187, R188: a partly visible cell takes one literal for each of its visible pixels, in raster
order.  That `SEQ.s` counts the cells of an edge macroblock, and what `SEQ.s` and `SEQ.p` hold after the last
one, is the model's choice (log 19). -/
def Obligations.LiteralCell : Prop :=
  ∀ (s : State) (lits : List Half) (w h : Nat), s.seq.stage = .sub .cells → s.has [.dims] = true →
    s.subAt.1 < s.fw → s.subAt.2 < s.fh → s.tileFits (.within .cells) = false →
    w = min 4 (s.fw - s.subAt.1) → h = min 4 (s.fh - s.subAt.2) → lits.length = w * h →
    s.bytesReady .edgelit (2 * (w * h)) = true →
    ∃ t, exec (.embLitCell lits) s = .next t ∧
      RectWritten s t s.subAt.1 s.subAt.2 w h (fun c r => lits.getD (r * w + c) 0) ∧
      t.a9 = s.a9.after s.a9map.edgelit (2 * (w * h)) ∧ t.seq = s.seqNextSub .cells ∧
      { t with frame := s.frame, a9 := s.a9, seq := s.seq } = s

/-- 43_a9ll_inter.md R176, R177, R187, 10_state.md R31: the sub-block after `sb` is the next one in raster order; of an edge
macroblock it is the next cell whose origin is visible, and none when no later cell is.  R187 names no register for
the cells: that `SEQ.s` counts them is the model's choice (log 19). -/
def Obligations.SubBlockOrder : Prop :=
  ∀ (w h t sb : Nat), sb ≤ 15 →
    (subAfter .sub3 w h t sb = if sb = 15 then none else some (sb + 1)) ∧
    (subAfter .sub2 w h t sb = if sb = 15 then none else some (sb + 1)) ∧
    (∀ i, subAfter .cells w h t sb = some i ↔
      sb < i ∧ i ≤ 15 ∧ cellVisible w h (subOrigin w t i) = true ∧
      ∀ j, sb < j → j < i → cellVisible w h (subOrigin w t j) = false) ∧
    (subAfter .cells w h t sb = none ↔
      ∀ j, sb < j → j ≤ 15 → cellVisible w h (subOrigin w t j) = false)

/-! ## W2 depth 1 -/

/-- Where the main loop goes after a symbol (44_w2_depth1.md R203, R210): the frame is full, or the index stream has ended
at a symbol boundary, and the frame is complete; else an index value is next. -/
def W2Continues (s t : State) : Prop :=
  t.seq = if t.k = t.n ∨ t.idx.avail = 0 then s.seqComplete else { s.seq with stage := .w2Index }

/-- 44_w2_depth1.md R202, R203, R204, R207, R208: an index value moves `IDX` past its bytes; a literal pair emits its low
half, then its high half, as far as pixels remain, and always consumes its four bytes. -/
def Obligations.W2ValueLiteral : Prop :=
  ∀ s : State,
    (∀ v : Nat, s.seq.stage = .w2Index → s.bytesReady .idx (v / 255 + 1) = true →
      exec (.value v) s = .next ({ s with idx := s.idx.after (v / 255 + 1) }.goto (.w2Sym v))) ∧
    (∀ q : Word, s.seq.stage = .w2Sym 0 → s.has [.dims, .pixelCount] = true → s.bytesReady .lit 4 = true →
      s.bytesReady .idx 0 = true → s.n = s.fw * s.fh → s.k < s.n →
      ∃ t, exec (.w2Lit q) s = .next t ∧ t.k = min s.n (s.k + 2) ∧
        t.frame.at (s.k % s.fw) (s.k / s.fw) = q.extractLsb' 0 16 ∧
        (s.k + 1 < s.n → t.frame.at ((s.k + 1) % s.fw) ((s.k + 1) / s.fw) = q.extractLsb' 16 16) ∧
        (∀ j, j < s.n → j ≠ s.k → j ≠ s.k + 1 →
          t.frame.at (j % s.fw) (j / s.fw) = s.frame.at (j % s.fw) (j / s.fw)) ∧
        t.lit = s.lit.after 4 ∧ W2Continues s t ∧
        { t with frame := s.frame, k := s.k, lit := s.lit, seq := s.seq } = s)

/-- 44_w2_depth1.md R205, R206, R207, R208, R211: a run emits its table entry's two pixels again and again until it ends or
the frame is full, its length read from the cursor that parameter P13 says; an entry outside the table raises
`INVALID_DATA` before the run length is read. -/
def Obligations.W2RunEmits : Prop :=
  ∀ (s : State) (idx run : Nat) (q : Word), 1 ≤ idx → s.seq.stage = .w2Sym idx → s.has [.rsW2D1] = true →
    s.holds s.tab.mem s.tab.stop = true →
    (s.tab.stop < s.tab.start + 4 * (idx - 1) + 4 → Raises (exec (.w2Run idx run) s) s .invalidData) ∧
    (s.tab.start + 4 * (idx - 1) + 4 ≤ s.tab.stop → s.has [.dims, .pixelCount] = true →
      s.bytesReady .run (run / 255 + 1) = true → s.bytesReady .idx 0 = true → s.n = s.fw * s.fh → s.k < s.n →
      q = Memory.u32 (s.mem s.tab.mem) (s.tab.start + 4 * (idx - 1)) →
      ∃ t, exec (.w2Run idx run) s = .next t ∧ t.k = min s.n (s.k + 2 * run) ∧ t.entry = q ∧ t.run = run ∧
        (∀ j, j < 2 * run → s.k + j < s.n → t.frame.at ((s.k + j) % s.fw) ((s.k + j) / s.fw) =
          if j % 2 = 0 then q.extractLsb' 0 16 else q.extractLsb' 16 16) ∧
        (∀ j, j < s.n → (j < s.k ∨ s.k + 2 * run ≤ j) →
          t.frame.at (j % s.fw) (j / s.fw) = s.frame.at (j % s.fw) (j / s.fw)) ∧
        (t.idx, t.lit) =
          (match s.cfg.w2Layout.runFrom with
            | .idx => (s.idx.after (run / 255 + 1), s.lit)
            | .lit => (s.idx, s.lit.after (run / 255 + 1))) ∧
        W2Continues s t ∧
        { t with frame := s.frame, k := s.k, entry := s.entry, run := s.run, idx := s.idx, lit := s.lit, seq := s.seq,
                 written := s.written } = s)

/-! ## W2 depth 2 -/

/-- Where the strip loop goes when value or strip ends at `t.ipos < t.size` (45_w2_depth2.md R220). -/
def StripContinues (s t : State) : Prop :=
  t.seq = { s.seq with stage := if t.ipos + 16 ≤ t.size then .d2Sel else .d2Tail }

/-- The bytes of `IBUF` from `a` on become `bs`, and no other byte changes. -/
def IbufWritten (s t : State) (a : Nat) (bs : List Byte) : Prop :=
  (∀ j, j < bs.length → Store.get t.ibuf (a + j) = bs.getD j 0) ∧
  ∀ b, b < a ∨ a + bs.length ≤ b → Store.get t.ibuf b = Store.get s.ibuf b

/-- `o` is the start of the depth-1 pass over the filled `IBUF` of `u`, from 0 to `S` (45_w2_depth2.md R220, R233), with the
test configuration's depth-1 layout: the regions lie behind the 16-byte header in `IBUF`, or `INVALID_DATA` is raised. -/
def HandsOver (s u : State) (o : Host.Outcome State Fault Refusal) : Prop :=
  ∀ n il ll : Nat, s.has [.dims] = true → s.hdr.w ≠ 0 → s.hdr.h ≠ 0 → s.cfg.w2Layout = Config.tc0.w2Layout →
    n = (Memory.u32 u.ibuf 0).toNat → il = (Memory.u32 u.ibuf 4).toNat → ll = (Memory.u32 u.ibuf 8).toNat →
    (16 + 4 * n + il + ll ≤ s.size →
      ∃ t, o = .next t ∧ t.k = 0 ∧ t.n = s.fw * s.fh ∧
        t.tab = { mem := .ibuf, start := 16, stop := 16 + 4 * n, pos := 16 } ∧
        t.idx = { mem := .ibuf, start := 16 + 4 * n, stop := 16 + 4 * n + il, pos := 16 + 4 * n } ∧
        t.lit = { mem := .ibuf, start := 16 + 4 * n + il, stop := 16 + 4 * n + il + ll, pos := 16 + 4 * n + il } ∧
        t.seq.stage = (if il = 0 then .complete else .w2Index) ∧ t.has [.rsW2D1, .pixelCount] = true ∧
        { t with k := u.k, n := u.n, tab := u.tab, idx := u.idx, lit := u.lit, seq := u.seq, written := u.written } = u) ∧
    (s.size < 16 + 4 * n + il + ll → Raises o s .invalidData)

/-- 45_w2_depth2.md R222, R226, R229: the first strip's literal fills `IBUF[0..3]`; a selector chooses the strip; a
presence mask opens the eight values of a `D2.STRIP2`.  A distance update is next before value 0. -/
def Obligations.DepthTwoOpeners : Prop :=
  ∀ (s : State) (d : D2Coding), s.cfg.d2 = some d →
    (∀ q : Word, s.seq.stage = .d2Strip1 → s.has [.ibuf, .size] = true → 16 ≤ s.size → s.bytesReady .d2l 4 = true →
      ∃ t, exec (.d2Strip1 q) s = .next t ∧
        IbufWritten s t 0 [q.extractLsb' 0 8, q.extractLsb' 8 8, q.extractLsb' 16 8, q.extractLsb' 24 8] ∧
        t.ipos = 4 ∧ t.d2 = s.d2.after d.litCur 4 ∧ t.seq = { s.seq with stage := .d2Dist .first 0 } ∧
        { t with ibuf := s.ibuf, ipos := s.ipos, d2 := s.d2, seq := s.seq, written := s.written } = s) ∧
    (∀ (code : List Bool) (kind : StripKind), s.seq.stage = .d2Sel → d.selector.spells code (some kind) = true →
      s.bitsReady .d2b code.length = true →
      exec (.d2StripSel code kind) s =
        .next ({ s with d2b := s.d2b.after code.length }.goto (.d2Body kind))) ∧
    (∀ mask : Byte, s.seq.stage = .d2Body .strip2 →
      (d.maskInBits = true → s.bitsReady .d2b 8 = true →
        exec (.d2Strip2 true mask) s = .next ({ s with d2b := s.d2b.after 8 }.goto (.d2Dist (.later mask) 0))) ∧
      (d.maskInBits = false → s.bytesReady .d2mask 1 = true →
        exec (.d2Strip2 false mask) s =
          .next ({ s with d2 := s.d2.after d.maskCur 1 }.goto (.d2Dist (.later mask) 0))))

/-- 45_w2_depth2.md R224: the flag bit selects no update, a 1-byte or a 2-byte distance, as P14 says; the value it precedes
is next. -/
def Obligations.DistanceUpdate : Prop :=
  ∀ (s : State) (d : D2Coding) (strip : Strip) (j : Nat) (flag : Bool), s.cfg.d2 = some d →
    s.seq.stage = .d2Dist strip j → s.bitsReady .d2b 1 = true →
    ((if flag then d.distIfSet else d.distIfClear) = .keep →
      exec (.d2Dist flag .keep) s = .next ({ s with d2b := s.d2b.after 1 }.goto (.d2Value strip j))) ∧
    (∀ v : Byte, (if flag then d.distIfSet else d.distIfClear) = .byte → s.bytesReady .d2dist 1 = true →
      exec (.d2Dist flag (.byte v)) s =
        .next ((State.mark { s with d2b := s.d2b.after 1, d2 := s.d2.after d.distCur 1, dist := v.toNat } .dist).goto
          (.d2Value strip j))) ∧
    (∀ v : Half, (if flag then d.distIfSet else d.distIfClear) = .half → s.bytesReady .d2dist 2 = true →
      exec (.d2Dist flag (.half v)) s =
        .next ((State.mark { s with d2b := s.d2b.after 1, d2 := s.d2.after d.distCur 2, dist := v.toNat } .dist).goto
          (.d2Value strip j)))

/-- What a value that wrote the two bytes of `v` at `IPOS` leaves: `IPOS` moves by 2, and the next value, strip or the tail
is next. -/
def ValueWritten (s t : State) (strip : Strip) (j : Nat) (code : List Bool) (b0 b1 : Byte) : Prop :=
  IbufWritten s t s.ipos [b0, b1] ∧ t.ipos = s.ipos + 2 ∧ t.d2b = s.d2b.after code.length ∧
  t.seq = { s.seq with stage :=
    if j + 1 < stripValues strip then stripStage strip (j + 1)
    else if s.ipos + 2 + 16 ≤ s.size then .d2Sel else .d2Tail } ∧
  { t with ibuf := s.ibuf, ipos := s.ipos, d2b := s.d2b, d2 := s.d2, seq := s.seq } = s

/-- The outcome `o` of a value that wrote the bytes `b0`, `b1` and left the byte cursors `d2`: the next value, strip or the
tail, or, after the strip that ends exactly at `S`, the nested pass (45_w2_depth2.md R220, R233). -/
def ValueLeaves (s : State) (strip : Strip) (j : Nat) (code : List Bool) (b0 b1 : Byte) (d2 : ByteBank)
    (o : Host.Outcome State Fault Refusal) : Prop :=
  (j + 1 < stripValues strip ∨ s.ipos + 2 < s.size →
    ∃ t, o = .next t ∧ ValueWritten s t strip j code b0 b1 ∧ t.d2 = d2) ∧
  (j + 1 = stripValues strip → s.ipos + 2 = s.size →
    ∃ u, IbufWritten s u s.ipos [b0, b1] ∧ u.ipos = s.size ∧ u.d2b = s.d2b.after code.length ∧ u.d2 = d2 ∧
      { u with ibuf := s.ibuf, ipos := s.ipos, d2b := s.d2b, d2 := s.d2 } = s ∧ HandsOver s u o)

/-- 45_w2_depth2.md R223, R225: the three kinds of value.  A back-reference copies its two bytes one at a time; a key
outside the table, or a source before the buffer's start or at distance 0, raises `INVALID_DATA`.  The last value of a strip
that ends at `S` hands over to the nested pass (R233).  Of the XOR value the forms of P14's base (`State.xorOperand`) and the
`INVALID_DATA` of a base that reaches before the buffer (`State.xorReady`) are the model's own (DESIGN CHOICE, log 2), and so
is the repeated byte of the base at the distance when `DIST = 1` (DESIGN CHOICE, log 13); that of the back-reference is
DEDUCED from R223 and R228 (log 13). -/
def Obligations.DepthTwoValues : Prop :=
  ∀ (s : State) (d : D2Coding) (strip : Strip) (j : Nat) (code : List Bool), s.cfg.d2 = some d →
    s.seq.stage = .d2Value strip j → s.has [.ibuf, .size, .ipos, .dist] = true →
    s.bitsReady .d2b code.length = true → s.ipos + 2 ≤ s.size →
    ((kindCode d strip j).spells code .backref = true →
      (1 ≤ s.dist → s.dist ≤ s.ipos →
        ValueLeaves s strip j code (Store.get s.ibuf (s.ipos - s.dist))
          (if s.dist = 1 then Store.get s.ibuf (s.ipos - 1) else Store.get s.ibuf (s.ipos + 1 - s.dist)) s.d2
          (exec (.d2Value code .backref) s)) ∧
      (s.dist = 0 ∨ s.ipos < s.dist → Raises (exec (.d2Value code .backref) s) s .invalidData)) ∧
    (∀ v : Half, (kindCode d strip j).spells code .lit = true → s.bytesReady .d2l 2 = true →
      ValueLeaves s strip j code (v.extractLsb' 0 8) (v.extractLsb' 8 8) (s.d2.after d.litCur 2)
        (exec (.d2Value code (.lit v)) s)) ∧
    (∀ (key : Byte) (base : Half), (kindCode d strip j).spells code .xor = true → s.bytesReady .d2key 1 = true →
      base = s.xorOperand d.xorBase →
      (key.toNat < d.xtab.length → s.xorReady d.xorBase = true →
        ValueLeaves s strip j code ((base ^^^ d.xtab.getD key.toNat 0).extractLsb' 0 8)
          ((base ^^^ d.xtab.getD key.toNat 0).extractLsb' 8 8) (s.d2.after d.keyCur 1)
          (exec (.d2Value code (.xor key)) s)) ∧
      (d.xtab.length ≤ key.toNat ∨ s.xorReady d.xorBase = false →
        Raises (exec (.d2Value code (.xor key)) s) s .invalidData))

/-- Each of the 16 bytes of `IBUF` from `IPOS` on equals the byte `DIST` before it after the copy (R228), and no other byte
changes. -/
def CopiedBack (s t : State) : Prop :=
  (∀ j, j < 16 → Store.get t.ibuf (s.ipos + j) = Store.get t.ibuf (s.ipos + j - s.dist)) ∧
  ∀ b, b < s.ipos ∨ s.ipos + 16 ≤ b → Store.get t.ibuf b = Store.get s.ibuf b

/-- 45_w2_depth2.md R225, R227, R228: a verbatim strip is its 16 literal bytes; a back-reference strip is the forward
byte-by-byte copy from the distance, so that a distance below 16 repeats its last bytes.  A strip that ends exactly at `S`
hands over to the nested pass (R220, R233). -/
def Obligations.LaterStrips : Prop :=
  ∀ (s : State) (d : D2Coding), s.cfg.d2 = some d → s.has [.ibuf, .size, .ipos, .dist] = true →
    s.ipos + 16 ≤ s.size →
    (∀ bytes : List Byte, s.seq.stage = .d2Body .verb → bytes.length = 16 → s.bytesReady .d2l 16 = true →
      (s.ipos + 16 < s.size →
        ∃ t, exec (.d2Verb bytes) s = .next t ∧ IbufWritten s t s.ipos bytes ∧ t.ipos = s.ipos + 16 ∧
          t.d2 = s.d2.after d.litCur 16 ∧ StripContinues s t ∧
          { t with ibuf := s.ibuf, ipos := s.ipos, d2 := s.d2, seq := s.seq } = s) ∧
      (s.ipos + 16 = s.size →
        ∃ u, IbufWritten s u s.ipos bytes ∧ u.ipos = s.size ∧ u.d2 = s.d2.after d.litCur 16 ∧
          { u with ibuf := s.ibuf, ipos := s.ipos, d2 := s.d2 } = s ∧ HandsOver s u (exec (.d2Verb bytes) s))) ∧
    (s.seq.stage = .d2Body .back →
      (1 ≤ s.dist → s.dist ≤ s.ipos →
        (s.ipos + 16 < s.size →
          ∃ t, exec .d2Back s = .next t ∧ CopiedBack s t ∧ t.ipos = s.ipos + 16 ∧ StripContinues s t ∧
            { t with ibuf := s.ibuf, ipos := s.ipos, seq := s.seq } = s) ∧
        (s.ipos + 16 = s.size →
          ∃ u, CopiedBack s u ∧ u.ipos = s.size ∧ { u with ibuf := s.ibuf, ipos := s.ipos } = s ∧
            HandsOver s u (exec .d2Back s))) ∧
      (s.dist = 0 ∨ s.ipos < s.dist → Raises (exec .d2Back s) s .invalidData))

/-- 45_w2_depth2.md R231, R233 with the test configuration's depth-1 layout: the tail fills `IBUF` to its end, and the
depth-1 pass starts over `IBUF` from 0 to `S`: its regions lie behind the 16-byte header in `IBUF`, and one that does not
fit raises `INVALID_DATA`. -/
def Obligations.TailAndNestedPass : Prop :=
  ∀ (s : State) (d : D2Coding) (bytes : List Byte) (m : Memory) (n il ll : Nat), s.cfg.d2 = some d →
    s.seq.stage = .d2Tail → s.has [.ibuf, .size, .ipos, .dims] = true → s.ipos < s.size →
    bytes.length = s.size - s.ipos → bytes.length ≤ 15 → s.bytesReady .d2l bytes.length = true →
    s.hdr.w ≠ 0 → s.hdr.h ≠ 0 → s.cfg.w2Layout = Config.tc0.w2Layout →
    m = Memory.setBytes s.ibuf s.ipos bytes → n = (Memory.u32 m 0).toNat → il = (Memory.u32 m 4).toNat →
    ll = (Memory.u32 m 8).toNat →
    (16 + 4 * n + il + ll ≤ s.size →
      ∃ t, exec (.d2Tail bytes) s = .next t ∧ IbufWritten s t s.ipos bytes ∧ t.ibuf = m ∧ t.ipos = s.size ∧
        t.d2 = s.d2.after d.litCur bytes.length ∧ t.k = 0 ∧ t.n = s.fw * s.fh ∧
        t.tab = { mem := .ibuf, start := 16, stop := 16 + 4 * n, pos := 16 } ∧
        t.idx = { mem := .ibuf, start := 16 + 4 * n, stop := 16 + 4 * n + il, pos := 16 + 4 * n } ∧
        t.lit = { mem := .ibuf, start := 16 + 4 * n + il, stop := 16 + 4 * n + il + ll, pos := 16 + 4 * n + il } ∧
        t.seq.stage = (if il = 0 then .complete else .w2Index) ∧
        { t with ibuf := s.ibuf, ipos := s.ipos, d2 := s.d2, k := s.k, n := s.n, tab := s.tab, idx := s.idx,
                 lit := s.lit, seq := s.seq, written := s.written } = s) ∧
    (s.size < 16 + 4 * n + il + ll → Raises (exec (.d2Tail bytes) s) s .invalidData)

/-! ## Every step -/

/-- 20_memory.md R51, 10_state.md R40: right after reset `STATUS` is IDLE and OK, no reference is held, and the invariant
holds. -/
def Obligations.ResetState : Prop :=
  State.reset.status = { phase := .idle, code := .ok } ∧ State.reset.ref.valid = false ∧
  State.reset.seq.stage = .idle ∧ State.reset.inv = true

/-- Every step keeps the canonical form of every memory (log 6). -/
def Obligations.CanonicalStep : Prop :=
  ∀ s t : State, s.canonical = true → step s = .next t → t.canonical = true

/-- Every step keeps the invariant. -/
def Obligations.InvariantStep : Prop :=
  ∀ s t : State, s.inv = true → step s = .next t → t.inv = true

/-- 10_state.md R39, 20_memory.md R60: from a state of the invariant no step reads a working register that this DECODE has
not written, and none reads or writes outside a memory. -/
def Obligations.NoFault : Prop :=
  ∀ s : State, s.inv = true → ∀ f : Fault, step s ≠ .fault f

/-- 10_state.md R21: no step changes `CFG`. -/
def Obligations.ConfigConstant : Prop :=
  ∀ s t : State, step s = .next t → t.cfg = s.cfg

/-- 10_state.md R23, 60_exceptions.md R276, 70_reset_and_hazards.md R293: `REF` changes only when a DECODE completes, and on
a RESET of an idle block. -/
def Obligations.ReferenceChanges : Prop :=
  ∀ s t : State, step s = .next t → t.ref ≠ s.ref →
    (s.seq.stage = .complete ∧ t.status = { phase := .done, code := .ok } ∧ t.ref.pix = t.frame ∧
      (s.hdr.indexColor = false → t.frame = s.frame)) ∨
    (s.seq.stage = .idle ∧ s.queue.head? = some .reset ∧ t.ref.valid = false)

/-- 20_memory.md R50, R64: no step of a DECODE changes the packet, and none of the depth-1 pass changes `IBUF`. -/
def Obligations.BitstreamUnwritten : Prop :=
  ∀ s t : State, step s = .next t →
    (s.seq.stage ≠ .idle → t.pkt = s.pkt ∧ t.len = s.len) ∧
    (s.seq.stage = .w2Index ∨ (∃ idx, s.seq.stage = .w2Sym idx) → t.ibuf = s.ibuf ∧ t.size = s.size)

/-- 46_orchestrator.md R256, R257, 10_state.md R22: while a DECODE runs, `STATUS` keeps its value until the step that ends
it; that step sets DONE, and if its code is not OK, `REF` is unchanged.  That `OUT` and the output buffer keep their earlier
values until then is the model's choice: the spec gives them no value while BUSY (70_reset_and_hazards.md R290, log 17). -/
def Obligations.StatusAtEnd : Prop :=
  ∀ s t : State, s.seq.stage ≠ .idle → s.status.phase = .busy → step s = .next t →
    (t.status = s.status ∧ t.out = s.out ∧ t.outBuf = s.outBuf ∧ t.seq.stage ≠ .idle) ∨
    (t.status = { phase := .done, code := .ok } ∧ s.seq.stage = .complete ∧ t.seq.stage = .idle) ∨
    (t.status.phase = .done ∧ t.status.code ≠ .ok ∧ t.ref = s.ref ∧ t.seq.stage = .idle)

/-- 70_reset_and_hazards.md R296: every DECODE ends.  From a state of the invariant in which one runs, some number of steps
reaches DONE, or the refusal of an input to which the spec gives no meaning. -/
def Obligations.DecodeEnds : Prop :=
  ∀ s : State, s.inv = true → s.status.phase = .busy →
    ∃ k, (∃ t : State, Sys2Proof.core.run k s = .next t ∧ t.status.phase = .done) ∨
      ∃ r, Sys2Proof.core.run k s = .refused r
end

