-- ==== Sys2Proof/Laws/Act.lean ====
section
/-! SUPPORT. The laws of a rule's computation `Act` and of `finish`: what a sequence of steps answers, said once. -/

namespace Sys2Proof.Machine

open Sys2Proof

@[simp] theorem Act.ok_bind {ε α β : Type} (a : α) (f : α → Except ε β) :
    ((Except.ok a : Except ε α) >>= f) = f a := rfl

@[simp] theorem Act.error_bind {ε α β : Type} (e : ε) (f : α → Except ε β) :
    ((Except.error e : Except ε α) >>= f) = Except.error e := rfl

/-- A sequence answers `b` exactly when its first part answers some `a` and the rest, from `a`, answers `b`. -/
theorem Act.bind_eq_ok {ε α β : Type} {x : Except ε α} {f : α → Except ε β} {b : β} :
    (x >>= f) = .ok b ↔ ∃ a, x = .ok a ∧ f a = .ok b := by
  cases x <;> simp

@[simp] theorem finish_ok (s t : State) : finish s (.ok t) = .next t := rfl

@[simp] theorem finish_raise (s : State) (e : Err) : finish s (.error (.raise e)) = .next (s.fail e) := rfl

@[simp] theorem finish_fault (s : State) (f : Fault) : finish s (.error (.fault f)) = .fault f := rfl

@[simp] theorem finish_refuse (s : State) (r : Refusal) : finish s (.error (.refuse r)) = .refused r := rfl

/-- All that a rule can end in when the machine goes on: its own next state, or the state a raised error leaves. -/
theorem finish_eq_next {s t : State} {a : Act State} :
    finish s a = .next t ↔ a = .ok t ∨ ∃ e, a = .error (.raise e) ∧ t = s.fail e := by
  rcases a with (_ | _ | _) | _ <;> simp [eq_comm]

@[simp] theorem require_true (e : Err) : require true e = .ok () := rfl

@[simp] theorem require_false (e : Err) : require false e = .error (.raise e) := rfl

theorem require_eq_ok {b : Bool} {e : Err} {u : Unit} : require b e = .ok u ↔ b = true := by
  cases b <;> simp

@[simp] theorem expect_true : expect true = .ok () := rfl

@[simp] theorem expect_false : expect false = .error (.fault .outOfSequence) := rfl

theorem expect_eq_ok {b : Bool} {u : Unit} : expect b = .ok u ↔ b = true := by
  cases b <;> simp

/-- A working register that this DECODE has written is read. -/
theorem State.rd_ok {α : Type} {s : State} {r : Reg} {v : α} (h : r ∈ s.written) : s.rd r v = .ok v := by
  simp [State.rd, h]

theorem State.rd_eq_ok {α : Type} {s : State} {r : Reg} {v a : α} : s.rd r v = .ok a ↔ r ∈ s.written ∧ v = a := by
  unfold State.rd
  split <;> simp_all

/-- The frame size is read once `HDR.DIMS` has run. -/
theorem State.dims_ok {s : State} (h : Reg.dims ∈ s.written) : s.dims = .ok (s.hdr.w.toNat, s.hdr.h.toNat) :=
  State.rd_ok h

end Sys2Proof.Machine
end

