-- ==== Sys2Proof/Laws/Store.lean ====
section
/-! SUPPORT. The sparse stores: a read after a write, and that every operation keeps the one canonical form. -/

namespace Sys2Proof.Machine

open Sys2Proof

variable {n : Nat}

/-! ## Reads after writes -/

@[simp] theorem Store.get_nil (a : Nat) : Store.get ([] : List (Nat × BitVec n)) a = 0 := rfl

@[simp] theorem Store.find_nil (a : Nat) : Store.find ([] : List (Nat × BitVec n)) a = none := rfl

theorem Store.get_put (m : List (Nat × BitVec n)) (a b : Nat) (v : BitVec n) :
    Store.get (Store.put m a v) b = if b = a then v else Store.get m b := by
  induction m with
  | nil => simp [Store.put, Store.get]
  | cons e m ih =>
    obtain ⟨k, w⟩ := e
    simp only [Store.put]
    split
    · simp [Store.get]
    · split
      · simp only [Store.get]; split <;> simp_all
      · simp only [Store.get, ih]; split <;> simp_all [eq_comm]

theorem Store.find_put (m : List (Nat × BitVec n)) (a b : Nat) (v : BitVec n) :
    Store.find (Store.put m a v) b = if b = a then some v else Store.find m b := by
  induction m with
  | nil => simp [Store.put, Store.find]
  | cons e m ih =>
    obtain ⟨k, w⟩ := e
    simp only [Store.put]
    split
    · simp [Store.find]
    · split
      · simp only [Store.find]; split <;> simp_all
      · simp only [Store.find, ih]; split <;> simp_all [eq_comm]

theorem Store.get_del (m : List (Nat × BitVec n)) (a b : Nat) :
    Store.get (Store.del m a) b = if b = a then 0 else Store.get m b := by
  induction m with
  | nil => simp [Store.del, Store.get]
  | cons e m ih =>
    obtain ⟨k, w⟩ := e
    simp only [Store.del]
    split
    · simp only [Store.get, ih]; split <;> simp_all
    · simp only [Store.get, ih]; split <;> simp_all [eq_comm]

/-- A write is read back where it was made, and changes no other place. -/
theorem Store.get_set (m : List (Nat × BitVec n)) (a b : Nat) (v : BitVec n) :
    Store.get (Store.set m a v) b = if b = a then v else Store.get m b := by
  unfold Store.set
  split
  · simp_all [Store.get_del]
  · exact Store.get_put m a b v

@[simp] theorem Store.get_set_same (m : List (Nat × BitVec n)) (a : Nat) (v : BitVec n) :
    Store.get (Store.set m a v) a = v := by simp [Store.get_set]

theorem Store.get_set_other {m : List (Nat × BitVec n)} {a b : Nat} (v : BitVec n) (h : b ≠ a) :
    Store.get (Store.set m a v) b = Store.get m b := by simp [Store.get_set, h]

/-! ## The canonical form -/

theorem Store.rising_of_le {m : List (Nat × BitVec n)} {lo lo' : Nat} (h : lo' ≤ lo)
    (hm : Store.rising lo m = true) : Store.rising lo' m = true := by
  cases m with
  | nil => rfl
  | cons e m =>
    simp only [Store.rising, Bool.and_eq_true, decide_eq_true_eq] at *
    exact ⟨by omega, hm.2⟩

theorem Store.rising_put {m : List (Nat × BitVec n)} {lo a : Nat} (v : BitVec n) (ha : lo ≤ a)
    (hm : Store.rising lo m = true) : Store.rising lo (Store.put m a v) = true := by
  induction m generalizing lo with
  | nil => simpa [Store.put, Store.rising]
  | cons e m ih =>
    obtain ⟨k, w⟩ := e
    simp only [Store.rising, Bool.and_eq_true, decide_eq_true_eq] at hm
    simp only [Store.put]
    split
    · simp only [Store.rising, Bool.and_eq_true, decide_eq_true_eq]
      exact ⟨ha, by omega, hm.2⟩
    · split
      · subst a
        simp only [Store.rising, Bool.and_eq_true, decide_eq_true_eq]
        exact ⟨ha, hm.2⟩
      · simp only [Store.rising, Bool.and_eq_true, decide_eq_true_eq]
        exact ⟨hm.1, ih (by omega) hm.2⟩

theorem Store.rising_del {m : List (Nat × BitVec n)} {lo : Nat} (a : Nat)
    (hm : Store.rising lo m = true) : Store.rising lo (Store.del m a) = true := by
  induction m generalizing lo with
  | nil => rfl
  | cons e m ih =>
    obtain ⟨k, w⟩ := e
    simp only [Store.rising, Bool.and_eq_true, decide_eq_true_eq] at hm
    simp only [Store.del]
    split
    · exact Store.rising_of_le (by omega) (ih hm.2)
    · simp only [Store.rising, Bool.and_eq_true, decide_eq_true_eq]
      exact ⟨hm.1, ih hm.2⟩

theorem Store.nonzero_put {m : List (Nat × BitVec n)} {a : Nat} {v : BitVec n} (hv : v ≠ 0)
    (hm : (m.all fun e => e.2 != 0) = true) : ((Store.put m a v).all fun e => e.2 != 0) = true := by
  induction m with
  | nil => simpa [Store.put]
  | cons e m ih =>
    obtain ⟨k, w⟩ := e
    rw [List.all_cons, Bool.and_eq_true] at hm
    simp only [Store.put]
    split
    · rw [List.all_cons, List.all_cons, Bool.and_eq_true, Bool.and_eq_true]
      exact ⟨bne_iff_ne.mpr hv, hm⟩
    · split
      · rw [List.all_cons, Bool.and_eq_true]
        exact ⟨bne_iff_ne.mpr hv, hm.2⟩
      · rw [List.all_cons, Bool.and_eq_true]
        exact ⟨hm.1, ih hm.2⟩

theorem Store.nonzero_del {m : List (Nat × BitVec n)} (a : Nat)
    (hm : (m.all fun e => e.2 != 0) = true) : ((Store.del m a).all fun e => e.2 != 0) = true := by
  induction m with
  | nil => rfl
  | cons e m ih =>
    obtain ⟨k, w⟩ := e
    simp only [List.all_cons, Bool.and_eq_true] at hm
    simp only [Store.del]
    split
    · exact ih hm.2
    · simp only [List.all_cons, Bool.and_eq_true]
      exact ⟨hm.1, ih hm.2⟩

@[simp] theorem Store.wf_nil : Store.wf ([] : List (Nat × BitVec n)) = true := rfl

/-- Every write keeps the canonical form. -/
theorem Store.wf_set {m : List (Nat × BitVec n)} (a : Nat) (v : BitVec n) (hm : Store.wf m = true) :
    Store.wf (Store.set m a v) = true := by
  simp only [Store.wf, Bool.and_eq_true] at hm
  unfold Store.set
  split
  · simp only [Store.wf, Bool.and_eq_true]
    exact ⟨Store.rising_del a hm.1, Store.nonzero_del a hm.2⟩
  · rename_i hv
    simp only [Store.wf, Bool.and_eq_true]
    exact ⟨Store.rising_put v (by omega) hm.1, Store.nonzero_put hv hm.2⟩

/-- A sequence of writes keeps the canonical form. -/
theorem Store.wf_foldl_set {α : Type} (l : List α) (key : α → Nat) (val : α → BitVec n)
    {m : List (Nat × BitVec n)} (hm : Store.wf m = true) :
    Store.wf (l.foldl (fun m p => Store.set m (key p) (val p)) m) = true := by
  induction l generalizing m with
  | nil => exact hm
  | cons p l ih => exact ih (Store.wf_set _ _ hm)

theorem Store.wf_ofList (entries : List (Nat × BitVec n)) : Store.wf (Store.ofList entries) = true :=
  Store.wf_foldl_set entries (·.1) (·.2) Store.wf_nil

/-- Two stores in canonical form that read the same everywhere are equal data. -/
theorem Store.eq_of_get {m m' : List (Nat × BitVec n)} (hm : Store.wf m = true) (hm' : Store.wf m' = true)
    (h : ∀ a, Store.get m a = Store.get m' a) : m = m' := by
  have below : ∀ (l : List (Nat × BitVec n)) (lo a : Nat), Store.rising lo l = true → a < lo → Store.get l a = 0 := by
    intro l
    induction l with
    | nil => intros; rfl
    | cons e l ih =>
      intro lo a hl ha
      simp only [Store.rising, Bool.and_eq_true, decide_eq_true_eq] at hl
      simp only [Store.get]
      rw [if_neg (by omega)]
      exact ih _ _ hl.2 (by omega)
  have main : ∀ (m m' : List (Nat × BitVec n)) (lo : Nat), Store.rising lo m = true → Store.rising lo m' = true →
      (m.all fun e => e.2 != 0) = true → (m'.all fun e => e.2 != 0) = true →
      (∀ a, Store.get m a = Store.get m' a) → m = m' := by
    intro m
    induction m with
    | nil =>
      intro m' lo _ hr _ hz h
      cases m' with
      | nil => rfl
      | cons e m' =>
        have := h e.1
        simp_all [Store.get]
    | cons e m ih =>
      intro m' lo hr hr' hz hz' h
      cases m' with
      | nil =>
        have := h e.1
        simp_all [Store.get]
      | cons e' m' =>
        obtain ⟨k, v⟩ := e
        obtain ⟨k', v'⟩ := e'
        simp only [Store.rising, Bool.and_eq_true, decide_eq_true_eq, List.all_cons, bne_iff_ne] at hr hr' hz hz'
        have hk : k = k' := by
          rcases Nat.lt_trichotomy k k' with hlt | heq | hlt
          · have := h k
            rw [Store.get, if_pos rfl, Store.get, if_neg (by omega), below m' _ _ hr'.2 (by omega)] at this
            exact absurd this hz.1
          · exact heq
          · have := h k'
            rw [Store.get, if_neg (by omega), Store.get, if_pos rfl, below m _ _ hr.2 (by omega)] at this
            exact absurd this.symm hz'.1
        subst hk
        have hv : v = v' := by simpa [Store.get] using h k
        subst hv
        congr 1
        refine ih m' (k + 1) hr.2 hr'.2 hz.2 hz'.2 fun a => ?_
        by_cases ha : a = k
        · subst ha
          rw [below m _ _ hr.2 (by omega), below m' _ _ hr'.2 (by omega)]
        · simpa [Store.get, ha] using h a
  simp only [Store.wf, Bool.and_eq_true] at hm hm'
  exact main m m' 0 hm.1 hm'.1 hm.2 hm'.2 h

/-! ## Byte memories -/

/-- Writing bytes keeps the canonical form. -/
theorem Memory.wf_setBytes {m : Memory} (a : Nat) (bs : List Byte) (hm : Memory.wf m = true) :
    Memory.wf (Memory.setBytes m a bs) = true := by
  induction bs generalizing m a with
  | nil => exact hm
  | cons b bs ih => exact ih (a + 1) (Store.wf_set a b hm)

/-- What a byte reads as after bytes were written from `a` on. -/
theorem Memory.get_setBytes (m : Memory) (a b : Nat) (bs : List Byte) :
    Store.get (Memory.setBytes m a bs) b =
      if a ≤ b ∧ b < a + bs.length then bs.getD (b - a) 0 else Store.get m b := by
  induction bs generalizing m a with
  | nil => simp [Memory.setBytes]
  | cons x bs ih =>
    simp only [Memory.setBytes, ih, Store.get_set, List.length_cons]
    by_cases h1 : a + 1 ≤ b ∧ b < a + 1 + bs.length
    · rw [if_pos h1, if_pos (by omega)]
      have : b - a = (b - (a + 1)) + 1 := by omega
      rw [this, List.getD_cons_succ]
    · rw [if_neg h1]
      by_cases h2 : b = a
      · subst h2; simp
      · rw [if_neg h2, if_neg (by omega)]

/-! ## Pixel stores -/

/-- Coordinates below 2^16 have keys of their own. -/
theorem pixKey_inj {x y x' y' : Nat} (h : x < 65536) (h' : x' < 65536) :
    pixKey x y = pixKey x' y' ↔ x = x' ∧ y = y' := by
  unfold pixKey; omega

@[simp] theorem Pixels.at_nil (x y : Nat) : Pixels.at [] x y = 0 := rfl

/-- A pixel write is read back at its pixel and nowhere else. -/
theorem Pixels.at_set {m : Pixels} {x y x' y' : Nat} (v : Half) (h : x < 65536) (h' : x' < 65536) :
    Pixels.at (Store.set m (pixKey x y) v) x' y' = if x' = x ∧ y' = y then v else m.at x' y' := by
  simp only [Pixels.at, Store.get_set, pixKey_inj h' h]

/-- A column and row of the rectangle. -/
theorem mem_raster {w h c r : Nat} : (c, r) ∈ raster w h ↔ c < w ∧ r < h := by
  simp only [raster, List.mem_flatMap, List.mem_map, List.mem_range, Prod.mk.injEq]
  constructor
  · rintro ⟨r', hr, c', hc, rfl, rfl⟩; exact ⟨hc, hr⟩
  · rintro ⟨hc, hr⟩; exact ⟨r, hr, c, hc, rfl, rfl⟩

theorem Pixels.at_foldl_set (l : List (Nat × Nat)) (m : Pixels) (x0 y0 : Nat) (f : Nat → Nat → Half) {x y : Nat}
    (hx : x < 65536) (hl : ∀ p ∈ l, x0 + p.1 < 65536) :
    Pixels.at (l.foldl (fun m p => Store.set m (pixKey (x0 + p.1) (y0 + p.2)) (f (x0 + p.1) (y0 + p.2))) m) x y =
      if ∃ p ∈ l, x = x0 + p.1 ∧ y = y0 + p.2 then f x y else m.at x y := by
  induction l generalizing m with
  | nil => simp
  | cons p l ih =>
    rw [List.foldl_cons, ih _ fun q hq => hl q (List.mem_cons_of_mem _ hq),
      Pixels.at_set _ (hl p (List.mem_cons_self)) hx]
    by_cases h1 : ∃ q ∈ l, x = x0 + q.1 ∧ y = y0 + q.2
    · rw [if_pos h1, if_pos]
      obtain ⟨q, hq, h⟩ := h1
      exact ⟨q, List.mem_cons_of_mem _ hq, h⟩
    · rw [if_neg h1]
      by_cases h2 : x = x0 + p.1 ∧ y = y0 + p.2
      · rw [if_pos h2, if_pos ⟨p, List.mem_cons_self, h2⟩, h2.1, h2.2]
      · rw [if_neg h2, if_neg]
        rintro ⟨q, hq, h⟩
        rcases List.mem_cons.mp hq with rfl | hq
        · exact h2 h
        · exact h1 ⟨q, hq, h⟩

/-- `fill` writes its rectangle and nothing else. -/
theorem Pixels.at_fill (m : Pixels) (x0 y0 w h : Nat) (f : Nat → Nat → Half) {x y : Nat} (hx : x < 65536)
    (hw : x0 + w ≤ 65536) :
    (m.fill x0 y0 w h f).at x y =
      if x0 ≤ x ∧ x < x0 + w ∧ y0 ≤ y ∧ y < y0 + h then f x y else m.at x y := by
  unfold Pixels.fill
  rw [Pixels.at_foldl_set _ _ _ _ _ hx]
  · congr 1
    apply propext
    constructor
    · rintro ⟨⟨c, r⟩, hp, h1, h2⟩
      have := mem_raster.mp hp
      simp only at h1 h2
      omega
    · rintro ⟨h1, h2, h3, h4⟩
      exact ⟨(x - x0, y - y0), mem_raster.mpr (by omega), by simp only; omega⟩
  · rintro ⟨c, r⟩ hp
    have := mem_raster.mp hp
    simp only
    omega

/-- `fill` keeps the canonical form. -/
theorem Pixels.wf_fill {m : Pixels} (x0 y0 w h : Nat) (f : Nat → Nat → Half) (hm : Store.wf m = true) :
    Store.wf (m.fill x0 y0 w h f) = true :=
  Store.wf_foldl_set _ _ _ hm

end Sys2Proof.Machine
end

