-- ==== Sys2Proof/Laws/Ops.lean ====
section
/-! SUPPORT. One lemma for each shared operation: what it answers where it may run. -/

namespace Sys2Proof.Machine

open Sys2Proof

/-! ## Working registers -/

theorem State.has_nil (s : State) : s.has [] = true := rfl

theorem State.has_cons {s : State} {r : Reg} {rs : List Reg} :
    s.has (r :: rs) = true ↔ r ∈ s.written ∧ s.has rs = true := by
  simp [State.has]

theorem State.needRegs_ok {s : State} {rs : List Reg} (h : s.has rs = true) : s.needRegs rs = .ok () := by
  induction rs with
  | nil => rfl
  | cons r rs ih =>
    obtain ⟨hr, hrs⟩ := State.has_cons.mp h
    simp [State.needRegs, State.rd_ok hr, ih hrs]

theorem State.needRegs_eq_ok {s : State} {rs : List Reg} {u : Unit} :
    s.needRegs rs = .ok u ↔ s.has rs = true := by
  induction rs with
  | nil => simp [State.needRegs, State.has]
  | cons r rs ih => simp [State.needRegs, State.has_cons, Act.bind_eq_ok, State.rd_eq_ok, ih]

theorem State.mem_mark {s : State} {r q : Reg} : q ∈ (s.mark r).written ↔ q = r ∨ q ∈ s.written := by
  unfold State.mark
  split <;> simp
  rintro rfl; assumption

/-- The header step is done: the next one is `hdrNext`. -/
theorem State.hdrDone_ok {s : State} {k : HdrStep} (h : s.has (hdrNeeds k) = true) :
    s.hdrDone k = .ok (s.goto (hdrNext s.hdr k)) := by
  simp [State.hdrDone, State.needRegs_ok h]

/-! ## Cursors -/

theorem BitCursor.read_ok {c : BitCursor} {m : Memory} {n : Nat} (h : n ≤ c.avail) :
    c.read m n = .ok (valueOfBits (c.bits m n), c.after n) := by
  simp [BitCursor.read, BitCursor.after, Nat.not_lt.mpr h]

theorem BitCursor.read_short {c : BitCursor} {m : Memory} {n : Nat} (h : c.avail < n) :
    c.read m n = .error (.raise .invalidData) := by
  simp [BitCursor.read, h]

theorem ByteCursor.read_ok {c : ByteCursor} {m : Memory} {n : Nat} (h : n ≤ c.avail) :
    c.read m n = .ok (c.bytes m n, c.after n) := by
  simp [ByteCursor.read, ByteCursor.after, Nat.not_lt.mpr h]

theorem ByteCursor.read_short {c : ByteCursor} {m : Memory} {n : Nat} (h : c.avail < n) :
    c.read m n = .error (.raise .invalidData) := by
  simp [ByteCursor.read, h]

/-- A memory that has been written may be read. -/
theorem State.needMem_ok {s : State} {mem : CurMem} (h : s.memHas mem = true) : s.needMem mem = .ok () := by
  cases mem with
  | packet => rfl
  | ibuf =>
    obtain ⟨hi, hs⟩ := State.has_cons.mp h
    simp [State.needMem, State.rd_ok hi, State.rd_ok (State.has_cons.mp hs).1]

/-- A region inside a memory that has been written may be read. -/
theorem State.within_ok {s : State} {mem : CurMem} {stop : Nat} (h : s.holds mem stop = true) :
    s.within mem stop = .ok () := by
  obtain ⟨hm, hs⟩ := Bool.and_eq_true_iff.mp h
  simp [State.within, State.needMem_ok hm, of_decide_eq_true hs]

/-- A bit cursor that is ready delivers its bits and moves past them. -/
theorem State.skipBits_ok {s : State} {id : BitCur} {n : Nat} (h : s.bitsReady id n = true) :
    s.skipBits id n = .ok (s.setBitCur ((s.bitCur id).after n) id) := by
  simp only [State.bitsReady, Bool.and_eq_true, decide_eq_true_eq, State.has_cons] at h
  obtain ⟨⟨⟨hr, -⟩, hs⟩, hn⟩ := h
  simp [State.skipBits, State.readBits, State.liveBit, State.rd_ok hr, State.within_ok hs, BitCursor.read_ok hn]

/-- A bit cursor that is short raises `INVALID_DATA`. -/
theorem State.skipBits_short {s : State} {id : BitCur} {n : Nat} (h : s.bitsShort id n = true) :
    s.skipBits id n = .error (.raise .invalidData) := by
  simp only [State.bitsShort, Bool.and_eq_true, decide_eq_true_eq, State.has_cons] at h
  obtain ⟨⟨⟨hr, -⟩, hs⟩, hn⟩ := h
  simp [State.skipBits, State.readBits, State.liveBit, State.rd_ok hr, State.within_ok hs, BitCursor.read_short hn]

theorem State.bytesReady_iff {s : State} {id : ByteCur} {n : Nat} :
    s.bytesReady id n = true ↔ ∃ c, s.byteCur id = .ok c ∧ s.holds c.mem c.stop = true ∧ n ≤ c.avail := by
  unfold State.bytesReady
  split <;> simp_all

theorem State.bytesShort_iff {s : State} {id : ByteCur} {n : Nat} :
    s.bytesShort id n = true ↔ ∃ c, s.byteCur id = .ok c ∧ s.holds c.mem c.stop = true ∧ c.avail < n := by
  unfold State.bytesShort
  split <;> simp_all

theorem State.liveByte_ok {s : State} {id : ByteCur} {c : ByteCursor} (h : s.byteCur id = .ok c)
    (hc : s.holds c.mem c.stop = true) : s.liveByte id = .ok c := by
  simp [State.liveByte, h, State.within_ok hc]

/-- A byte cursor that is ready delivers its bytes and moves past them. -/
theorem State.skipBytes_ok {s : State} {id : ByteCur} {n : Nat} {c : ByteCursor} (h : s.byteCur id = .ok c)
    (hc : s.holds c.mem c.stop = true) (hn : n ≤ c.avail) :
    s.skipBytes id n = .ok (s.setByteCur (c.after n) id) := by
  simp [State.skipBytes, State.readBytes, State.liveByte_ok h hc, ByteCursor.read_ok hn]

theorem State.skipBytes_short {s : State} {id : ByteCur} {n : Nat} (h : s.bytesShort id n = true) :
    s.skipBytes id n = .error (.raise .invalidData) := by
  obtain ⟨c, h, hc, hn⟩ := State.bytesShort_iff.mp h
  simp [State.skipBytes, State.readBytes, State.liveByte_ok h hc, ByteCursor.read_short hn]

theorem State.bytesLeft_ok {s : State} {id : ByteCur} {c : ByteCursor} (h : s.byteCur id = .ok c)
    (hc : s.holds c.mem c.stop = true) : s.bytesLeft id = .ok c.avail := by
  simp [State.bytesLeft, State.liveByte_ok h hc]

/-- What a bit cursor has left, without moving it. -/
theorem State.peekBits_ok {s : State} {id : BitCur} (n : Nat) (h : s.bitsReady id 0 = true) :
    s.peekBits id n = .ok (s.bitsUnder id (min n (s.bitCur id).avail)) := by
  simp only [State.bitsReady, Bool.and_eq_true, State.has_cons] at h
  obtain ⟨⟨⟨hr, -⟩, hs⟩, -⟩ := h
  simp [State.peekBits, State.liveBit, State.rd_ok hr, State.within_ok hs, State.bitsUnder]

/-- What a byte cursor has left, without moving it. -/
theorem State.peekBytes_ok {s : State} {id : ByteCur} {c : ByteCursor} (n : Nat) (h : s.byteCur id = .ok c)
    (hc : s.holds c.mem c.stop = true) : s.peekBytes id n = .ok (c.bytes (s.mem c.mem) (min n c.avail)) := by
  simp [State.peekBytes, State.liveByte_ok h hc]

/-- A code that lies under a bit cursor is among what it has left. -/
theorem State.codeUnder_iff {s : State} {id : BitCur} {code : List Bool} :
    s.codeUnder id code = true ↔ s.bitsReady id code.length = true ∧ s.bitsUnder id code.length = code := by
  simp [State.codeUnder]

/-- A prefix code takes exactly the bits that it spells, whatever follows them (30_encoding.md R88). -/
theorem takeCode_of_spells {α : Type} [DecidableEq α] {tree : PrefixCode α} {code : List Bool} {a : α}
    (rest : List Bool) (h : tree.spells code a = true) : takeCode tree (code ++ rest) = .ok (code, a, rest) := by
  induction tree generalizing code with
  | leaf b =>
    cases code with
    | nil => simp only [PrefixCode.spells, decide_eq_true_eq] at h; simp [takeCode, h]
    | cons x xs => simp [PrefixCode.spells] at h
  | node z o hz ho =>
    cases code with
    | nil => simp [PrefixCode.spells] at h
    | cons x xs =>
      cases x <;> simp only [PrefixCode.spells, Bool.false_eq_true, if_false, if_true] at h
      · simp [takeCode, hz h]
      · simp [takeCode, ho h]

@[simp] theorem ByteBank.get_set (b : ByteBank) (c : ByteCursor) (p : Phys) : (b.set c p).get p = c := by
  cases p <;> rfl

@[simp] theorem ByteBank.set_set (b : ByteBank) (c c' : ByteCursor) (p : Phys) : (b.set c p).set c' p = b.set c' p := by
  cases p <;> rfl

@[simp] theorem BitCursor.after_after (c : BitCursor) (m n : Nat) : (c.after m).after n = c.after (m + n) := by
  simp [BitCursor.after, Nat.add_assoc]

@[simp] theorem ByteCursor.after_after (c : ByteCursor) (m n : Nat) : (c.after m).after n = c.after (m + n) := by
  simp [ByteCursor.after, Nat.add_assoc]

@[simp] theorem ByteBank.after_after (b : ByteBank) (p : Phys) (m n : Nat) :
    (b.after p m).after p n = b.after p (m + n) := by
  simp [ByteBank.after]

@[simp] theorem ByteBank.get_after (b : ByteBank) (p : Phys) (n : Nat) : (b.after p n).get p = (b.get p).after n := by
  simp [ByteBank.after]

/-! ## Pixels -/

/-- A pixel of the frame may be written. -/
theorem State.putPixel_ok {s : State} {x y : Nat} {v : Half} (hd : Reg.dims ∈ s.written) (hx : x < s.fw)
    (hy : y < s.fh) : s.putPixel x y v = .ok { s with frame := Store.set s.frame (pixKey x y) v } := by
  unfold State.fw at hx
  unfold State.fh at hy
  simp [State.putPixel, State.dims_ok hd, hx, hy]

/-- A rectangle of the frame may be written. -/
theorem State.fillRect_ok {s : State} {x0 y0 w h : Nat} {f : Nat → Nat → Half} (hd : Reg.dims ∈ s.written)
    (hx : x0 + w ≤ s.fw) (hy : y0 + h ≤ s.fh) :
    s.fillRect x0 y0 w h f = .ok { s with frame := s.frame.fill x0 y0 w h f } := by
  unfold State.fw at hx
  unfold State.fh at hy
  simp [State.fillRect, State.dims_ok hd, hx, hy]

theorem State.fw_lt (s : State) : s.fw < 65536 := s.hdr.w.isLt

theorem State.fh_lt (s : State) : s.fh < 65536 := s.hdr.h.isLt

/-- A rectangle of a usable reference may be read. -/
theorem State.needRef_ok {s : State} {x y : Int} {w h : Nat} (hr : s.refUsable = true) (hx : 0 ≤ x)
    (hxw : x + w ≤ s.fw) (hy : 0 ≤ y) (hyh : y + h ≤ s.fh) : s.needRef x y w h = .ok () := by
  simp only [State.refUsable, Bool.and_eq_true, beq_iff_eq] at hr
  obtain ⟨⟨hv, hw⟩, hh⟩ := hr
  unfold State.fw at hxw
  unfold State.fh at hyh
  simp [State.needRef, hv, hw, hh, hx, hxw, hy, hyh]

/-- `INSIDE` is its four inequalities. -/
theorem inside_iff {fw fh : Nat} {x y : Int} {w h : Nat} :
    inside fw fh x y w h = true ↔ 0 ≤ x ∧ x + w ≤ fw ∧ 0 ≤ y ∧ y + h ≤ fh := by
  simp [inside, and_assoc]

/-- A square copied from a usable reference. -/
theorem State.copyRef_ok {s : State} {x0 y0 n : Nat} {dx dy : Int} (hd : Reg.dims ∈ s.written)
    (hr : s.refUsable = true) (hx : x0 + n ≤ s.fw) (hy : y0 + n ≤ s.fh)
    (hi : inside s.fw s.fh (x0 + dx) (y0 + dy) n n = true) :
    s.copyRef x0 y0 n dx dy =
      .ok { s with frame := s.frame.fill x0 y0 n n fun x y => s.refAt (x + dx) (y + dy) } := by
  obtain ⟨h1, h2, h3, h4⟩ := inside_iff.mp hi
  simp [State.copyRef, State.needRef_ok hr h1 h2 h3 h4, State.fillRect_ok hd hx hy]

/-- The predictor's value, where what it reads may be read. -/
theorem State.predict_ok {s : State} {pr : Predictor} {x y : Nat} (hd : Reg.dims ∈ s.written)
    (hp : s.predReady pr x y = true) (hx : x < s.fw) (hy : y < s.fh) :
    s.predict pr x y = .ok (s.predValue pr x y) := by
  cases pr with
  | dir d =>
    simp only [State.predict, State.pred, State.dims_ok hd, Act.ok_bind, State.predValue, inside_iff]
    unfold State.fw State.fh
    split
    · rename_i h; rw [if_pos (by push_cast at *; omega)]
    · rename_i h; rw [if_neg (by push_cast at *; omega)]
  | ref =>
    have hx' : (x : Int) + (1 : Nat) ≤ s.fw := by omega
    have hy' : (y : Int) + (1 : Nat) ≤ s.fh := by omega
    simp [State.predict, State.predValue, State.refAt, State.needRef_ok hp (by omega) hx' (by omega) hy']
  | refMv =>
    simp only [State.predReady, Bool.and_eq_true, State.has_cons] at hp
    obtain ⟨⟨⟨hm, -⟩, hr⟩, hi⟩ := hp
    obtain ⟨h1, h2, h3, h4⟩ := inside_iff.mp hi
    simp [State.predict, State.predValue, State.refAt, State.rd_ok hm, State.needRef_ok hr h1 h2 h3 h4]

/-- Writing one pixel, read by read. -/
theorem pixelWritten_set (s t : State) {x y : Nat} {v : Half} (hx : x < 65536)
    (ht : t.frame = Store.set s.frame (pixKey x y) v) : PixelWritten s t x y v := by
  refine ⟨?_, fun x' y' hx' h => ?_⟩
  · rw [ht, Pixels.at_set v hx hx, if_pos ⟨rfl, rfl⟩]
  · rw [ht, Pixels.at_set v hx hx', if_neg h]

/-- Writing a rectangle, read by read. -/
theorem rectWritten_fill (s t : State) {x0 y0 w h : Nat} {f g : Nat → Nat → Half} (hw : x0 + w ≤ 65536)
    (ht : t.frame = s.frame.fill x0 y0 w h f) (hg : ∀ c r, c < w → r < h → f (x0 + c) (y0 + r) = g c r) :
    RectWritten s t x0 y0 w h g := by
  refine ⟨fun c r hc hr => ?_, fun x y hx hn => ?_⟩
  · rw [ht, Pixels.at_fill _ _ _ _ _ _ (by omega) hw, if_pos (by omega), hg c r hc hr]
  · rw [ht, Pixels.at_fill _ _ _ _ _ _ hx hw, if_neg hn]

/-! ## The sequencer -/

theorem State.nextTile_ok {s : State} (hd : Reg.dims ∈ s.written) :
    s.nextTile = .ok { s with seq := s.seqNextTile } := by
  simp only [State.nextTile, State.dims_ok hd, Act.ok_bind, State.seqNextTile, State.fw, State.fh]
  split
  · simp only [*, if_true]
  · simp only [*, if_false]; rfl

theorem State.nextMb_ok {s : State} (hd : Reg.dims ∈ s.written) : s.nextMb = .ok { s with seq := s.seqNextMb } := by
  simp only [State.nextMb, State.dims_ok hd, Act.ok_bind, State.seqNextMb, State.fw, State.fh]
  split
  · simp only [*, if_true]
  · simp only [*, if_false]; rfl

theorem State.nextSub_ok {s : State} (k : SubKind) (hd : Reg.dims ∈ s.written) :
    s.nextSub k = .ok { s with seq := s.seqNextSub k } := by
  simp only [State.nextSub, State.dims_ok hd, Act.ok_bind, State.seqNextSub, State.nextMb_ok hd, State.fw, State.fh]
  split <;> simp only [*]

theorem State.tileDone_ok {s : State} (k : TileKind) (hd : Reg.dims ∈ s.written) :
    s.tileDone k = .ok { s with seq := s.seqAfter k } := by
  cases k with
  | frame => exact State.nextTile_ok hd
  | within k => exact State.nextSub_ok k hd

theorem State.pixelDone_ok {s : State} (k : TileKind) (hd : Reg.dims ∈ s.written) :
    s.pixelDone k = .ok { s with seq := s.seqAfterPixel k } := by
  simp only [State.pixelDone, State.tileDone_ok k hd, State.seqAfterPixel]
  split <;> simp only [*]

theorem State.origin_ok {s : State} (k : TileKind) (hd : Reg.dims ∈ s.written) : s.origin k = .ok (s.tileAt k) := by
  cases k <;> simp [State.origin, State.dims_ok hd, State.tileAt, State.fw]

/-- The pixel whose symbol is next. -/
theorem State.pixelHere_ok {s : State} {pr : Predictor} {k : TileKind} {set : Bool}
    (h : s.pixelStands pr k set = true) :
    s.pixelHere set = .ok ((s.pixelAt k).1, (s.pixelAt k).2, pr, k) := by
  simp only [State.pixelStands, Bool.and_eq_true, decide_eq_true_eq, State.has_cons] at h
  obtain ⟨⟨⟨⟨hs, hd, hm, -⟩, -⟩, -⟩, hb⟩ := h
  unfold State.maskHere at hb
  cases hi : s.cfg.maskBit[s.seq.p]? with
  | none => simp [hi] at hb
  | some i =>
    simp only [hi, Option.map_some, Option.some.injEq] at hb
    subst hb
    simp [State.pixelHere, hs, State.maskBit, State.rd_ok hm, hi, State.origin_ok k hd, State.pixelAt]

/-- The pixel whose symbol is next lies in the image. -/
theorem State.pixelAt_lt {s : State} {pr : Predictor} {k : TileKind} {set : Bool}
    (h : s.pixelStands pr k set = true) : (s.pixelAt k).1 < s.fw ∧ (s.pixelAt k).2 < s.fh := by
  simp only [State.pixelStands, Bool.and_eq_true, decide_eq_true_eq, State.tileFits] at h
  obtain ⟨⟨⟨-, hp⟩, hx, hy⟩, -⟩ := h
  simp only [State.pixelAt]
  omega

/-! ## `IBUF` -/

theorem State.putIbufBytes_ok {s : State} {a : Nat} {bs : List Byte} (hi : Reg.ibuf ∈ s.written)
    (hz : Reg.size ∈ s.written) (h : bs = [] ∨ a + bs.length ≤ s.size) :
    s.putIbufBytes a bs = .ok { s with ibuf := Memory.setBytes s.ibuf a bs } := by
  induction bs generalizing s a with
  | nil => rfl
  | cons b bs ih =>
    have h' : a + (bs.length + 1) ≤ s.size := by simpa using h
    simp only [State.putIbufBytes, State.putIbuf, State.rd_ok hi, State.rd_ok hz, Act.ok_bind]
    rw [if_pos (by omega)]
    simp only [Act.ok_bind]
    rw [ih (s := { s with ibuf := Store.set s.ibuf a b }) (a := a + 1) hi hz
      (.inr (by simp only; omega))]
    rfl

theorem State.appendIbuf_ok {s : State} {bs : List Byte} (hi : Reg.ibuf ∈ s.written) (hz : Reg.size ∈ s.written)
    (hp : Reg.ipos ∈ s.written) (h : s.ipos + bs.length ≤ s.size) :
    s.appendIbuf bs =
      .ok { s with ibuf := Memory.setBytes s.ibuf s.ipos bs, ipos := s.ipos + bs.length } := by
  simp [State.appendIbuf, State.rd_ok hp, State.putIbufBytes_ok hi hz (.inr h)]

/-! ## Reader sets -/

theorem State.has_append {s : State} {rs qs : List Reg} : s.has (rs ++ qs) = true ↔ s.has rs = true ∧ s.has qs = true := by
  simp [State.has]

/-- A layout that passes its checks builds `RS.A9LL` (41_readers.md R140, R141). -/
theorem State.buildA9LL_ok {s : State} (h : s.has [.headerSize, .dataEnd] = true) (hl : s.hdr.dataStart + 8 ≤ s.len)
    (hg : a9Ok s.a9Regions s.hdr.headerSize.toNat s.hdr.dataEnd s.len = true) :
    s.buildA9LL = .ok (State.mark { s with
      bit1 := bitCursorOver s.a9Regions.bit1 .packet
      bit2 := bitCursorOver s.a9Regions.bit2 .packet
      a9 := { p0 := byteCursorOver s.a9Regions.byte0 .packet, p1 := byteCursorOver s.a9Regions.byte1 .packet,
              p2 := byteCursorOver s.a9Regions.byte2 .packet, p3 := byteCursorOver s.a9Regions.byte3 .packet }
      a9map := s.a9Regions.map } .rsA9LL) := by
  obtain ⟨hs, hd⟩ := State.has_cons.mp h
  simp [State.buildA9LL, State.rd_ok hs, State.rd_ok (State.has_cons.mp hd).1, hl, hg]

/-- A layout that fails a check raises `INVALID_DATA` (R140, R141). -/
theorem State.buildA9LL_bad {s : State} (h : s.has [.headerSize, .dataEnd] = true)
    (hg : a9Ok s.a9Regions s.hdr.headerSize.toNat s.hdr.dataEnd s.len = false) :
    s.buildA9LL = .error (.raise .invalidData) := by
  obtain ⟨hs, hd⟩ := State.has_cons.mp h
  simp only [State.buildA9LL, State.rd_ok hs, State.rd_ok (State.has_cons.mp hd).1, Act.ok_bind, hg, require_false,
    Act.error_bind]
  cases decide (s.hdr.dataStart + 8 ≤ s.len) <;> rfl

/-- Regions that pass their checks build `RS.W2D1` over a memory that has been written (R142). -/
theorem State.buildW2D1_ok {s : State} {mem : CurMem} {b e : Nat} {g : W2Regions} (hm : s.memHas mem = true)
    (hr : s.w2Regions mem b e = some g) (hg : w2Ok g b e = true) :
    s.buildW2D1 mem b e = .ok (State.mark { s with
      tab := byteCursorOver g.tab mem, idx := byteCursorOver g.idx mem, lit := byteCursorOver g.lit mem } .rsW2D1) := by
  simp [State.buildW2D1, State.needMem_ok hm, hr, hg]

/-- A header that does not fit, or regions that fail a check, raise `INVALID_DATA` (R142). -/
theorem State.buildW2D1_bad {s : State} {mem : CurMem} {b e : Nat} (hm : s.memHas mem = true)
    (hr : ∀ g, s.w2Regions mem b e = some g → w2Ok g b e = false) :
    s.buildW2D1 mem b e = .error (.raise .invalidData) := by
  simp only [State.buildW2D1, State.needMem_ok hm, Act.ok_bind]
  cases h : s.w2Regions mem b e with
  | none => rfl
  | some g => simp [hr g h]

/-- A nested pass over fewer than 16 bytes has no room for its header, whatever P13 is (45_w2_depth2.md R220). -/
theorem State.w2Regions_nested_short (s : State) {b e : Nat} (h : e < b + 16) : s.w2Regions .ibuf b e = none := by
  have hs : w2HeaderStop s.cfg.w2Layout.regions .ibuf b = b + 16 := by
    cases s.cfg.w2Layout.regions <;> simp [w2HeaderStop, w2HeaderAt]
  simp [State.w2Regions, hs, h]

/-- The regions behind a 16-byte header are one after another: they pass the checks exactly when the last one ends in time
(30_encoding.md R73). -/
theorem w2Ok_header {m : Memory} {b h e : Nat} {inBytes : Bool} (hb : b ≤ h) :
    w2Ok (w2Header m h e inBytes) b e = decide ((w2Header m h e inBytes).lit.stop ≤ e) := by
  cases inBytes <;>
  · rw [Bool.eq_iff_iff]
    simp [w2Ok, w2All, regionWithin, disjointAll, regionDisjoint, w2Header]
    omega

/-! ## Completion -/

/-- Without index colour the completed frame is the decoded one. -/
theorem State.finalFrame_plain {s : State} {w h : Nat} (hi : s.hdr.indexColor = false) : s.finalFrame w h = s.frame := by
  simp [State.finalFrame, hi]

/-- The completed frame is canonical when the decoded one is. -/
theorem State.finalFrame_wf {s : State} {w h : Nat} (hf : Store.wf s.frame = true) : Store.wf (s.finalFrame w h) = true := by
  unfold State.finalFrame
  split
  · split
    · exact Pixels.wf_fill _ _ _ _ _ rfl
    · exact hf
  · exact hf

/-- A pixel of the completed frame (P15, log 14). -/
theorem State.finalFrame_at {s : State} {x y : Nat} (hx : x < s.fw) (hy : y < s.fh) :
    (s.finalFrame s.fw s.fh).at x y =
      match s.hdr.indexColor, s.cfg.indexColor with
        | true, .decode _ (.impl id) =>
          Config.indexPixelFn id s.colourPlane s.hdr.dataEnd s.hdr.colorCount s.frame x y
        | _, _ => s.frame.at x y := by
  have hw := s.fw_lt
  unfold State.finalFrame
  cases s.hdr.indexColor
  · rfl
  · simp only [if_true]
    split
    · rename_i h
      rw [h, Pixels.at_fill _ _ _ _ _ _ (by omega) (by omega), if_pos (by omega)]
    · rename_i h
      split
      · rename_i h'; exact absurd h' (h _ _)
      · rfl

end Sys2Proof.Machine
end

