-- ==== Sys2Proof/Laws/State.lean ====
section
/-! SUPPORT. What each named update of `State` does to each field, true by `rfl`: later proofs never unfold an update. -/

namespace Sys2Proof.Machine

open Sys2Proof

/-! ## `State.mark` -/

@[simp] theorem State.mark_cfg (s : State) (r : Reg) : (s.mark r).cfg = s.cfg := rfl
@[simp] theorem State.mark_status (s : State) (r : Reg) : (s.mark r).status = s.status := rfl
@[simp] theorem State.mark_ref (s : State) (r : Reg) : (s.mark r).ref = s.ref := rfl
@[simp] theorem State.mark_out (s : State) (r : Reg) : (s.mark r).out = s.out := rfl
@[simp] theorem State.mark_frame (s : State) (r : Reg) : (s.mark r).frame = s.frame := rfl
@[simp] theorem State.mark_hdr (s : State) (r : Reg) : (s.mark r).hdr = s.hdr := rfl
@[simp] theorem State.mark_seq (s : State) (r : Reg) : (s.mark r).seq = s.seq := rfl
@[simp] theorem State.mark_bit1 (s : State) (r : Reg) : (s.mark r).bit1 = s.bit1 := rfl
@[simp] theorem State.mark_bit2 (s : State) (r : Reg) : (s.mark r).bit2 = s.bit2 := rfl
@[simp] theorem State.mark_d2b (s : State) (r : Reg) : (s.mark r).d2b = s.d2b := rfl
@[simp] theorem State.mark_a9 (s : State) (r : Reg) : (s.mark r).a9 = s.a9 := rfl
@[simp] theorem State.mark_a9map (s : State) (r : Reg) : (s.mark r).a9map = s.a9map := rfl
@[simp] theorem State.mark_tab (s : State) (r : Reg) : (s.mark r).tab = s.tab := rfl
@[simp] theorem State.mark_idx (s : State) (r : Reg) : (s.mark r).idx = s.idx := rfl
@[simp] theorem State.mark_lit (s : State) (r : Reg) : (s.mark r).lit = s.lit := rfl
@[simp] theorem State.mark_d2 (s : State) (r : Reg) : (s.mark r).d2 = s.d2 := rfl
@[simp] theorem State.mark_dt (s : State) (r : Reg) : (s.mark r).dt = s.dt := rfl
@[simp] theorem State.mark_mv (s : State) (r : Reg) : (s.mark r).mv = s.mv := rfl
@[simp] theorem State.mark_mask (s : State) (r : Reg) : (s.mark r).mask = s.mask := rfl
@[simp] theorem State.mark_k (s : State) (r : Reg) : (s.mark r).k = s.k := rfl
@[simp] theorem State.mark_n (s : State) (r : Reg) : (s.mark r).n = s.n := rfl
@[simp] theorem State.mark_run (s : State) (r : Reg) : (s.mark r).run = s.run := rfl
@[simp] theorem State.mark_entry (s : State) (r : Reg) : (s.mark r).entry = s.entry := rfl
@[simp] theorem State.mark_size (s : State) (r : Reg) : (s.mark r).size = s.size := rfl
@[simp] theorem State.mark_ibuf (s : State) (r : Reg) : (s.mark r).ibuf = s.ibuf := rfl
@[simp] theorem State.mark_ipos (s : State) (r : Reg) : (s.mark r).ipos = s.ipos := rfl
@[simp] theorem State.mark_dist (s : State) (r : Reg) : (s.mark r).dist = s.dist := rfl
@[simp] theorem State.mark_written (s : State) (r : Reg) : (s.mark r).written = if r ∈ s.written then s.written else r :: s.written := rfl
@[simp] theorem State.mark_pkt (s : State) (r : Reg) : (s.mark r).pkt = s.pkt := rfl
@[simp] theorem State.mark_len (s : State) (r : Reg) : (s.mark r).len = s.len := rfl
@[simp] theorem State.mark_stride (s : State) (r : Reg) : (s.mark r).stride = s.stride := rfl
@[simp] theorem State.mark_cap (s : State) (r : Reg) : (s.mark r).cap = s.cap := rfl
@[simp] theorem State.mark_outBuf (s : State) (r : Reg) : (s.mark r).outBuf = s.outBuf := rfl
@[simp] theorem State.mark_queue (s : State) (r : Reg) : (s.mark r).queue = s.queue := rfl
@[simp] theorem State.mark_frees (s : State) (r : Reg) : (s.mark r).frees = s.frees := rfl

/-! ## `State.goto` -/

@[simp] theorem State.goto_cfg (s : State) (g : Stage) : (s.goto g).cfg = s.cfg := rfl
@[simp] theorem State.goto_status (s : State) (g : Stage) : (s.goto g).status = s.status := rfl
@[simp] theorem State.goto_ref (s : State) (g : Stage) : (s.goto g).ref = s.ref := rfl
@[simp] theorem State.goto_out (s : State) (g : Stage) : (s.goto g).out = s.out := rfl
@[simp] theorem State.goto_frame (s : State) (g : Stage) : (s.goto g).frame = s.frame := rfl
@[simp] theorem State.goto_hdr (s : State) (g : Stage) : (s.goto g).hdr = s.hdr := rfl
@[simp] theorem State.goto_seq (s : State) (g : Stage) : (s.goto g).seq = { s.seq with stage := g } := rfl
@[simp] theorem State.goto_bit1 (s : State) (g : Stage) : (s.goto g).bit1 = s.bit1 := rfl
@[simp] theorem State.goto_bit2 (s : State) (g : Stage) : (s.goto g).bit2 = s.bit2 := rfl
@[simp] theorem State.goto_d2b (s : State) (g : Stage) : (s.goto g).d2b = s.d2b := rfl
@[simp] theorem State.goto_a9 (s : State) (g : Stage) : (s.goto g).a9 = s.a9 := rfl
@[simp] theorem State.goto_a9map (s : State) (g : Stage) : (s.goto g).a9map = s.a9map := rfl
@[simp] theorem State.goto_tab (s : State) (g : Stage) : (s.goto g).tab = s.tab := rfl
@[simp] theorem State.goto_idx (s : State) (g : Stage) : (s.goto g).idx = s.idx := rfl
@[simp] theorem State.goto_lit (s : State) (g : Stage) : (s.goto g).lit = s.lit := rfl
@[simp] theorem State.goto_d2 (s : State) (g : Stage) : (s.goto g).d2 = s.d2 := rfl
@[simp] theorem State.goto_dt (s : State) (g : Stage) : (s.goto g).dt = s.dt := rfl
@[simp] theorem State.goto_mv (s : State) (g : Stage) : (s.goto g).mv = s.mv := rfl
@[simp] theorem State.goto_mask (s : State) (g : Stage) : (s.goto g).mask = s.mask := rfl
@[simp] theorem State.goto_k (s : State) (g : Stage) : (s.goto g).k = s.k := rfl
@[simp] theorem State.goto_n (s : State) (g : Stage) : (s.goto g).n = s.n := rfl
@[simp] theorem State.goto_run (s : State) (g : Stage) : (s.goto g).run = s.run := rfl
@[simp] theorem State.goto_entry (s : State) (g : Stage) : (s.goto g).entry = s.entry := rfl
@[simp] theorem State.goto_size (s : State) (g : Stage) : (s.goto g).size = s.size := rfl
@[simp] theorem State.goto_ibuf (s : State) (g : Stage) : (s.goto g).ibuf = s.ibuf := rfl
@[simp] theorem State.goto_ipos (s : State) (g : Stage) : (s.goto g).ipos = s.ipos := rfl
@[simp] theorem State.goto_dist (s : State) (g : Stage) : (s.goto g).dist = s.dist := rfl
@[simp] theorem State.goto_written (s : State) (g : Stage) : (s.goto g).written = s.written := rfl
@[simp] theorem State.goto_pkt (s : State) (g : Stage) : (s.goto g).pkt = s.pkt := rfl
@[simp] theorem State.goto_len (s : State) (g : Stage) : (s.goto g).len = s.len := rfl
@[simp] theorem State.goto_stride (s : State) (g : Stage) : (s.goto g).stride = s.stride := rfl
@[simp] theorem State.goto_cap (s : State) (g : Stage) : (s.goto g).cap = s.cap := rfl
@[simp] theorem State.goto_outBuf (s : State) (g : Stage) : (s.goto g).outBuf = s.outBuf := rfl
@[simp] theorem State.goto_queue (s : State) (g : Stage) : (s.goto g).queue = s.queue := rfl
@[simp] theorem State.goto_frees (s : State) (g : Stage) : (s.goto g).frees = s.frees := rfl

/-! ## `State.gotoComplete` -/

@[simp] theorem State.gotoComplete_cfg (s : State) : (s.gotoComplete).cfg = s.cfg := rfl
@[simp] theorem State.gotoComplete_status (s : State) : (s.gotoComplete).status = s.status := rfl
@[simp] theorem State.gotoComplete_ref (s : State) : (s.gotoComplete).ref = s.ref := rfl
@[simp] theorem State.gotoComplete_out (s : State) : (s.gotoComplete).out = s.out := rfl
@[simp] theorem State.gotoComplete_frame (s : State) : (s.gotoComplete).frame = s.frame := rfl
@[simp] theorem State.gotoComplete_hdr (s : State) : (s.gotoComplete).hdr = s.hdr := rfl
@[simp] theorem State.gotoComplete_seq (s : State) : (s.gotoComplete).seq = { s.seq with unit := .complete, stage := .complete } := rfl
@[simp] theorem State.gotoComplete_bit1 (s : State) : (s.gotoComplete).bit1 = s.bit1 := rfl
@[simp] theorem State.gotoComplete_bit2 (s : State) : (s.gotoComplete).bit2 = s.bit2 := rfl
@[simp] theorem State.gotoComplete_d2b (s : State) : (s.gotoComplete).d2b = s.d2b := rfl
@[simp] theorem State.gotoComplete_a9 (s : State) : (s.gotoComplete).a9 = s.a9 := rfl
@[simp] theorem State.gotoComplete_a9map (s : State) : (s.gotoComplete).a9map = s.a9map := rfl
@[simp] theorem State.gotoComplete_tab (s : State) : (s.gotoComplete).tab = s.tab := rfl
@[simp] theorem State.gotoComplete_idx (s : State) : (s.gotoComplete).idx = s.idx := rfl
@[simp] theorem State.gotoComplete_lit (s : State) : (s.gotoComplete).lit = s.lit := rfl
@[simp] theorem State.gotoComplete_d2 (s : State) : (s.gotoComplete).d2 = s.d2 := rfl
@[simp] theorem State.gotoComplete_dt (s : State) : (s.gotoComplete).dt = s.dt := rfl
@[simp] theorem State.gotoComplete_mv (s : State) : (s.gotoComplete).mv = s.mv := rfl
@[simp] theorem State.gotoComplete_mask (s : State) : (s.gotoComplete).mask = s.mask := rfl
@[simp] theorem State.gotoComplete_k (s : State) : (s.gotoComplete).k = s.k := rfl
@[simp] theorem State.gotoComplete_n (s : State) : (s.gotoComplete).n = s.n := rfl
@[simp] theorem State.gotoComplete_run (s : State) : (s.gotoComplete).run = s.run := rfl
@[simp] theorem State.gotoComplete_entry (s : State) : (s.gotoComplete).entry = s.entry := rfl
@[simp] theorem State.gotoComplete_size (s : State) : (s.gotoComplete).size = s.size := rfl
@[simp] theorem State.gotoComplete_ibuf (s : State) : (s.gotoComplete).ibuf = s.ibuf := rfl
@[simp] theorem State.gotoComplete_ipos (s : State) : (s.gotoComplete).ipos = s.ipos := rfl
@[simp] theorem State.gotoComplete_dist (s : State) : (s.gotoComplete).dist = s.dist := rfl
@[simp] theorem State.gotoComplete_written (s : State) : (s.gotoComplete).written = s.written := rfl
@[simp] theorem State.gotoComplete_pkt (s : State) : (s.gotoComplete).pkt = s.pkt := rfl
@[simp] theorem State.gotoComplete_len (s : State) : (s.gotoComplete).len = s.len := rfl
@[simp] theorem State.gotoComplete_stride (s : State) : (s.gotoComplete).stride = s.stride := rfl
@[simp] theorem State.gotoComplete_cap (s : State) : (s.gotoComplete).cap = s.cap := rfl
@[simp] theorem State.gotoComplete_outBuf (s : State) : (s.gotoComplete).outBuf = s.outBuf := rfl
@[simp] theorem State.gotoComplete_queue (s : State) : (s.gotoComplete).queue = s.queue := rfl
@[simp] theorem State.gotoComplete_frees (s : State) : (s.gotoComplete).frees = s.frees := rfl

/-! ## `State.setHdr` -/

@[simp] theorem State.setHdr_cfg (s : State) (r : Reg) (h : Header) : (s.setHdr r h).cfg = s.cfg := rfl
@[simp] theorem State.setHdr_status (s : State) (r : Reg) (h : Header) : (s.setHdr r h).status = s.status := rfl
@[simp] theorem State.setHdr_ref (s : State) (r : Reg) (h : Header) : (s.setHdr r h).ref = s.ref := rfl
@[simp] theorem State.setHdr_out (s : State) (r : Reg) (h : Header) : (s.setHdr r h).out = s.out := rfl
@[simp] theorem State.setHdr_frame (s : State) (r : Reg) (h : Header) : (s.setHdr r h).frame = s.frame := rfl
@[simp] theorem State.setHdr_hdr (s : State) (r : Reg) (h : Header) : (s.setHdr r h).hdr = h := rfl
@[simp] theorem State.setHdr_seq (s : State) (r : Reg) (h : Header) : (s.setHdr r h).seq = s.seq := rfl
@[simp] theorem State.setHdr_bit1 (s : State) (r : Reg) (h : Header) : (s.setHdr r h).bit1 = s.bit1 := rfl
@[simp] theorem State.setHdr_bit2 (s : State) (r : Reg) (h : Header) : (s.setHdr r h).bit2 = s.bit2 := rfl
@[simp] theorem State.setHdr_d2b (s : State) (r : Reg) (h : Header) : (s.setHdr r h).d2b = s.d2b := rfl
@[simp] theorem State.setHdr_a9 (s : State) (r : Reg) (h : Header) : (s.setHdr r h).a9 = s.a9 := rfl
@[simp] theorem State.setHdr_a9map (s : State) (r : Reg) (h : Header) : (s.setHdr r h).a9map = s.a9map := rfl
@[simp] theorem State.setHdr_tab (s : State) (r : Reg) (h : Header) : (s.setHdr r h).tab = s.tab := rfl
@[simp] theorem State.setHdr_idx (s : State) (r : Reg) (h : Header) : (s.setHdr r h).idx = s.idx := rfl
@[simp] theorem State.setHdr_lit (s : State) (r : Reg) (h : Header) : (s.setHdr r h).lit = s.lit := rfl
@[simp] theorem State.setHdr_d2 (s : State) (r : Reg) (h : Header) : (s.setHdr r h).d2 = s.d2 := rfl
@[simp] theorem State.setHdr_dt (s : State) (r : Reg) (h : Header) : (s.setHdr r h).dt = s.dt := rfl
@[simp] theorem State.setHdr_mv (s : State) (r : Reg) (h : Header) : (s.setHdr r h).mv = s.mv := rfl
@[simp] theorem State.setHdr_mask (s : State) (r : Reg) (h : Header) : (s.setHdr r h).mask = s.mask := rfl
@[simp] theorem State.setHdr_k (s : State) (r : Reg) (h : Header) : (s.setHdr r h).k = s.k := rfl
@[simp] theorem State.setHdr_n (s : State) (r : Reg) (h : Header) : (s.setHdr r h).n = s.n := rfl
@[simp] theorem State.setHdr_run (s : State) (r : Reg) (h : Header) : (s.setHdr r h).run = s.run := rfl
@[simp] theorem State.setHdr_entry (s : State) (r : Reg) (h : Header) : (s.setHdr r h).entry = s.entry := rfl
@[simp] theorem State.setHdr_size (s : State) (r : Reg) (h : Header) : (s.setHdr r h).size = s.size := rfl
@[simp] theorem State.setHdr_ibuf (s : State) (r : Reg) (h : Header) : (s.setHdr r h).ibuf = s.ibuf := rfl
@[simp] theorem State.setHdr_ipos (s : State) (r : Reg) (h : Header) : (s.setHdr r h).ipos = s.ipos := rfl
@[simp] theorem State.setHdr_dist (s : State) (r : Reg) (h : Header) : (s.setHdr r h).dist = s.dist := rfl
@[simp] theorem State.setHdr_written (s : State) (r : Reg) (h : Header) : (s.setHdr r h).written = if r ∈ s.written then s.written else r :: s.written := rfl
@[simp] theorem State.setHdr_pkt (s : State) (r : Reg) (h : Header) : (s.setHdr r h).pkt = s.pkt := rfl
@[simp] theorem State.setHdr_len (s : State) (r : Reg) (h : Header) : (s.setHdr r h).len = s.len := rfl
@[simp] theorem State.setHdr_stride (s : State) (r : Reg) (h : Header) : (s.setHdr r h).stride = s.stride := rfl
@[simp] theorem State.setHdr_cap (s : State) (r : Reg) (h : Header) : (s.setHdr r h).cap = s.cap := rfl
@[simp] theorem State.setHdr_outBuf (s : State) (r : Reg) (h : Header) : (s.setHdr r h).outBuf = s.outBuf := rfl
@[simp] theorem State.setHdr_queue (s : State) (r : Reg) (h : Header) : (s.setHdr r h).queue = s.queue := rfl
@[simp] theorem State.setHdr_frees (s : State) (r : Reg) (h : Header) : (s.setHdr r h).frees = s.frees := rfl

/-! ## `State.fail` -/

@[simp] theorem State.fail_cfg (s : State) (e : Err) : (s.fail e).cfg = s.cfg := rfl
@[simp] theorem State.fail_status (s : State) (e : Err) : (s.fail e).status = { phase := .done, code := errCode e } := rfl
@[simp] theorem State.fail_ref (s : State) (e : Err) : (s.fail e).ref = s.ref := rfl
@[simp] theorem State.fail_out (s : State) (e : Err) : (s.fail e).out = freeOut s.frees := rfl
@[simp] theorem State.fail_frame (s : State) (e : Err) : (s.fail e).frame = Store.ofList (Config.freePixels s.frees) := rfl
@[simp] theorem State.fail_hdr (s : State) (e : Err) : (s.fail e).hdr = s.hdr := rfl
@[simp] theorem State.fail_seq (s : State) (e : Err) : (s.fail e).seq = { s.seq with stage := .idle } := rfl
@[simp] theorem State.fail_bit1 (s : State) (e : Err) : (s.fail e).bit1 = s.bit1 := rfl
@[simp] theorem State.fail_bit2 (s : State) (e : Err) : (s.fail e).bit2 = s.bit2 := rfl
@[simp] theorem State.fail_d2b (s : State) (e : Err) : (s.fail e).d2b = s.d2b := rfl
@[simp] theorem State.fail_a9 (s : State) (e : Err) : (s.fail e).a9 = s.a9 := rfl
@[simp] theorem State.fail_a9map (s : State) (e : Err) : (s.fail e).a9map = s.a9map := rfl
@[simp] theorem State.fail_tab (s : State) (e : Err) : (s.fail e).tab = s.tab := rfl
@[simp] theorem State.fail_idx (s : State) (e : Err) : (s.fail e).idx = s.idx := rfl
@[simp] theorem State.fail_lit (s : State) (e : Err) : (s.fail e).lit = s.lit := rfl
@[simp] theorem State.fail_d2 (s : State) (e : Err) : (s.fail e).d2 = s.d2 := rfl
@[simp] theorem State.fail_dt (s : State) (e : Err) : (s.fail e).dt = s.dt := rfl
@[simp] theorem State.fail_mv (s : State) (e : Err) : (s.fail e).mv = s.mv := rfl
@[simp] theorem State.fail_mask (s : State) (e : Err) : (s.fail e).mask = s.mask := rfl
@[simp] theorem State.fail_k (s : State) (e : Err) : (s.fail e).k = s.k := rfl
@[simp] theorem State.fail_n (s : State) (e : Err) : (s.fail e).n = s.n := rfl
@[simp] theorem State.fail_run (s : State) (e : Err) : (s.fail e).run = s.run := rfl
@[simp] theorem State.fail_entry (s : State) (e : Err) : (s.fail e).entry = s.entry := rfl
@[simp] theorem State.fail_size (s : State) (e : Err) : (s.fail e).size = s.size := rfl
@[simp] theorem State.fail_ibuf (s : State) (e : Err) : (s.fail e).ibuf = s.ibuf := rfl
@[simp] theorem State.fail_ipos (s : State) (e : Err) : (s.fail e).ipos = s.ipos := rfl
@[simp] theorem State.fail_dist (s : State) (e : Err) : (s.fail e).dist = s.dist := rfl
@[simp] theorem State.fail_written (s : State) (e : Err) : (s.fail e).written = s.written := rfl
@[simp] theorem State.fail_pkt (s : State) (e : Err) : (s.fail e).pkt = s.pkt := rfl
@[simp] theorem State.fail_len (s : State) (e : Err) : (s.fail e).len = s.len := rfl
@[simp] theorem State.fail_stride (s : State) (e : Err) : (s.fail e).stride = s.stride := rfl
@[simp] theorem State.fail_cap (s : State) (e : Err) : (s.fail e).cap = s.cap := rfl
@[simp] theorem State.fail_outBuf (s : State) (e : Err) : (s.fail e).outBuf = freeBuffer s.cap s.frees := rfl
@[simp] theorem State.fail_queue (s : State) (e : Err) : (s.fail e).queue = s.queue := rfl
@[simp] theorem State.fail_frees (s : State) (e : Err) : (s.fail e).frees = s.frees + 1 := rfl

/-! ## `State.enterUnit` -/

@[simp] theorem State.enterUnit_cfg (s : State) (u : SeqUnit) (f : Pixels) : (s.enterUnit u f).cfg = s.cfg := rfl
@[simp] theorem State.enterUnit_status (s : State) (u : SeqUnit) (f : Pixels) : (s.enterUnit u f).status = s.status := rfl
@[simp] theorem State.enterUnit_ref (s : State) (u : SeqUnit) (f : Pixels) : (s.enterUnit u f).ref = s.ref := rfl
@[simp] theorem State.enterUnit_out (s : State) (u : SeqUnit) (f : Pixels) : (s.enterUnit u f).out = s.out := rfl
@[simp] theorem State.enterUnit_frame (s : State) (u : SeqUnit) (f : Pixels) : (s.enterUnit u f).frame = f := rfl
@[simp] theorem State.enterUnit_hdr (s : State) (u : SeqUnit) (f : Pixels) : (s.enterUnit u f).hdr = s.hdr := rfl
@[simp] theorem State.enterUnit_seq (s : State) (u : SeqUnit) (f : Pixels) : (s.enterUnit u f).seq = { s.seq with unit := u, t := 0, s := 0, p := 0 } := rfl
@[simp] theorem State.enterUnit_bit1 (s : State) (u : SeqUnit) (f : Pixels) : (s.enterUnit u f).bit1 = s.bit1 := rfl
@[simp] theorem State.enterUnit_bit2 (s : State) (u : SeqUnit) (f : Pixels) : (s.enterUnit u f).bit2 = s.bit2 := rfl
@[simp] theorem State.enterUnit_d2b (s : State) (u : SeqUnit) (f : Pixels) : (s.enterUnit u f).d2b = s.d2b := rfl
@[simp] theorem State.enterUnit_a9 (s : State) (u : SeqUnit) (f : Pixels) : (s.enterUnit u f).a9 = s.a9 := rfl
@[simp] theorem State.enterUnit_a9map (s : State) (u : SeqUnit) (f : Pixels) : (s.enterUnit u f).a9map = s.a9map := rfl
@[simp] theorem State.enterUnit_tab (s : State) (u : SeqUnit) (f : Pixels) : (s.enterUnit u f).tab = s.tab := rfl
@[simp] theorem State.enterUnit_idx (s : State) (u : SeqUnit) (f : Pixels) : (s.enterUnit u f).idx = s.idx := rfl
@[simp] theorem State.enterUnit_lit (s : State) (u : SeqUnit) (f : Pixels) : (s.enterUnit u f).lit = s.lit := rfl
@[simp] theorem State.enterUnit_d2 (s : State) (u : SeqUnit) (f : Pixels) : (s.enterUnit u f).d2 = s.d2 := rfl
@[simp] theorem State.enterUnit_dt (s : State) (u : SeqUnit) (f : Pixels) : (s.enterUnit u f).dt = s.dt := rfl
@[simp] theorem State.enterUnit_mv (s : State) (u : SeqUnit) (f : Pixels) : (s.enterUnit u f).mv = s.mv := rfl
@[simp] theorem State.enterUnit_mask (s : State) (u : SeqUnit) (f : Pixels) : (s.enterUnit u f).mask = s.mask := rfl
@[simp] theorem State.enterUnit_k (s : State) (u : SeqUnit) (f : Pixels) : (s.enterUnit u f).k = s.k := rfl
@[simp] theorem State.enterUnit_n (s : State) (u : SeqUnit) (f : Pixels) : (s.enterUnit u f).n = s.n := rfl
@[simp] theorem State.enterUnit_run (s : State) (u : SeqUnit) (f : Pixels) : (s.enterUnit u f).run = s.run := rfl
@[simp] theorem State.enterUnit_entry (s : State) (u : SeqUnit) (f : Pixels) : (s.enterUnit u f).entry = s.entry := rfl
@[simp] theorem State.enterUnit_size (s : State) (u : SeqUnit) (f : Pixels) : (s.enterUnit u f).size = s.size := rfl
@[simp] theorem State.enterUnit_ibuf (s : State) (u : SeqUnit) (f : Pixels) : (s.enterUnit u f).ibuf = s.ibuf := rfl
@[simp] theorem State.enterUnit_ipos (s : State) (u : SeqUnit) (f : Pixels) : (s.enterUnit u f).ipos = s.ipos := rfl
@[simp] theorem State.enterUnit_dist (s : State) (u : SeqUnit) (f : Pixels) : (s.enterUnit u f).dist = s.dist := rfl
@[simp] theorem State.enterUnit_written (s : State) (u : SeqUnit) (f : Pixels) : (s.enterUnit u f).written = s.written := rfl
@[simp] theorem State.enterUnit_pkt (s : State) (u : SeqUnit) (f : Pixels) : (s.enterUnit u f).pkt = s.pkt := rfl
@[simp] theorem State.enterUnit_len (s : State) (u : SeqUnit) (f : Pixels) : (s.enterUnit u f).len = s.len := rfl
@[simp] theorem State.enterUnit_stride (s : State) (u : SeqUnit) (f : Pixels) : (s.enterUnit u f).stride = s.stride := rfl
@[simp] theorem State.enterUnit_cap (s : State) (u : SeqUnit) (f : Pixels) : (s.enterUnit u f).cap = s.cap := rfl
@[simp] theorem State.enterUnit_outBuf (s : State) (u : SeqUnit) (f : Pixels) : (s.enterUnit u f).outBuf = s.outBuf := rfl
@[simp] theorem State.enterUnit_queue (s : State) (u : SeqUnit) (f : Pixels) : (s.enterUnit u f).queue = s.queue := rfl
@[simp] theorem State.enterUnit_frees (s : State) (u : SeqUnit) (f : Pixels) : (s.enterUnit u f).frees = s.frees := rfl

end Sys2Proof.Machine
end

