-- ==== Sys2Proof/Tests/Slice0.lean ====
section
/-! SUPPORT. The model's own tests.  Every expected value is read or worked out by hand from spec/ (the encoding tables of
30_encoding.md, the rules, the vectors of 95_test_vectors.md); none is the model's own answer copied back.  A
`test_witness_…` theorem shows a concrete state and operands that meet every hypothesis of the obligation it names,
clause by clause at boundary values. -/

namespace Sys2Proof.Tests

open Sys2Proof Sys2Proof.Machine

set_option Elab.async false

/-! ## Well-formedness: an ill-formed term for each check -/

theorem test_wf_dtab_refuses_511_signs :
    Instr.wf (.dtab (List.replicate 511 1) (List.replicate 512 0)) = false := by decide +kernel

theorem test_wf_dtab_refuses_513_magnitudes :
    Instr.wf (.dtab (List.replicate 512 1) (List.replicate 513 0)) = false := by decide +kernel

theorem test_wf_dtab_accepts_512_pairs :
    Instr.wf (.dtab (List.replicate 512 1) (List.replicate 512 0)) = true := by decide +kernel

theorem test_wf_embLitCell_refuses_none : Instr.wf (.embLitCell []) = false := by decide

theorem test_wf_embLitCell_refuses_16 : Instr.wf (.embLitCell (List.replicate 16 0)) = false := by decide

theorem test_wf_embLitCell_accepts_15 : Instr.wf (.embLitCell (List.replicate 15 0)) = true := by decide

theorem test_wf_w2Run_refuses_index_0 : Instr.wf (.w2Run 0 5) = false ∧ Instr.wf (.w2Run 1 0) = true := by decide

theorem test_wf_d2Verb_refuses_15_and_17 :
    Instr.wf (.d2Verb (List.replicate 15 0)) = false ∧ Instr.wf (.d2Verb (List.replicate 17 0)) = false := by decide

theorem test_wf_d2Tail_refuses_0_and_16 :
    Instr.wf (.d2Tail []) = false ∧ Instr.wf (.d2Tail (List.replicate 16 0)) = false := by decide

/-- Parameters the spec forbids: a raw type list with 1 in it (R103), a P7 that is not one-to-one (R165). -/
theorem test_wf_config : Config.tc0.wf = true ∧ { Config.tc0 with rawType2 := 1 }.wf = false ∧
    { Config.tc0 with dirMap := { mode0 := .up, mode1 := .up, mode2 := .left } }.wf = false := by decide +kernel

/-! ## Decoding, from the encodings of 30_encoding.md -/

/-- R71: the header's fields at their offsets, little-endian. -/
theorem test_decode_header :
    decode (.hdr .len true false) {} = .ok .hdrLen ∧
    decode (.hdr .magic true false) { header := [0x51, 0x4D] } = .ok .hdrMagic ∧
    decode (.hdr .magic true false) { header := [0x4D, 0x51] } = .error .badMagic ∧
    decode (.hdr .version true false) { header := [0x0B] } = .ok (.hdrVersion 11) ∧
    decode (.hdr .rawType true false) { header := [0x02] } = .ok (.hdrRawType 2) ∧
    decode (.hdr .flagsAB true false) { header := [0x03, 0x11] } = .ok (.hdrFlagsAB 0x03 0x11) ∧
    decode (.hdr .dims true false) { header := [0x34, 0x12, 0x78, 0x56] } = .ok (.hdrDims 0x1234 0x5678) ∧
    decode (.hdr .flagsCD true false) { header := [0x04, 0x80] } = .ok (.hdrFlagsCD 0x04 0x80) := by decide

/-- R71: the variable part of the header; the alpha field's layout is the version's. -/
theorem test_decode_header_tail :
    decode (.hdr .alphaPresent true false) {} = .ok .hdrAlphaPresent ∧
    decode (.hdr .alpha true false) { header := [0x78, 0x56, 0x34, 0x12] } = .ok (.hdrAlphaLegacy 0x12345678) ∧
    decode (.hdr .alpha false false) { header := [0x34, 0x12, 0x07, 0xEE] } =
      .ok (.hdrAlphaModern 0x1234 7 0xEE) ∧
    decode (.hdr .anim true false) { header := [0x0A, 0x00, 0x02, 0x01, 0x64, 0x00, 0x01, 0xFF] } =
      .ok (.hdrAnim 10 0x0102 100 1 0xFF) ∧
    decode (.hdr .anim true false) { header := [0x0A, 0x00, 0x02, 0x01, 0x64, 0x00, 0x01] } = .error .overrun ∧
    decode (.hdr .first true false) {} = .ok .hdrFirst ∧
    decode (.hdr .scale false false) { header := [0x34, 0x12, 0x07, 0xEE] } = .ok (.hdrAlphaModern 0x1234 7 0xEE) ∧
    decode (.hdr .size true false) {} = .ok .hdrSize := by decide

/-- R71: the index-colour words, and the steps that read nothing. -/
theorem test_decode_header_end :
    decode (.hdr .index true true) { header := [0x01, 0x00, 0x00, 0x00, 0x00, 0x01, 0x00, 0x00] } =
      .ok (.hdrIndex (some 1) 256) ∧
    decode (.hdr .index true false) { header := [0x00, 0x01, 0x00, 0x00] } = .ok (.hdrIndex none 256) ∧
    decode (.hdr .xval true false) {} = .ok .hdrXval ∧
    decode (.hdr .dataEnd true false) {} = .ok .hdrDataEnd ∧
    decode (.hdr .qpGate true false) {} = .ok .hdrQpGate := by decide

/-- R75: `TILE2` modes `00`, `01`, `10` with a little-endian mask, `11` without. -/
theorem test_decode_tile2 :
    decode .tile2 { bit1 := [false, false], maskc := [0x01, 0x80] } = .ok (.tile2Dir0 0x8001) ∧
    decode .tile2 { bit1 := [false, true], maskc := [0x01, 0x80] } = .ok (.tile2Dir1 0x8001) ∧
    decode .tile2 { bit1 := [true, false], maskc := [0x01, 0x80] } = .ok (.tile2Dir2 0x8001) ∧
    decode .tile2 { bit1 := [true, true] } = .ok .tile2Edge ∧
    decode .tile2 { bit1 := [true, false], maskc := [0x01] } = .error .overrun := by decide

/-- R76: the class is three bits of `BIT2`, the index `class + 1` bits of `BIT1`, most significant first. -/
theorem test_decode_pixel_low :
    decode (.pixel true) {} = .ok .pixCopy ∧
    decode (.pixel false) { bit2 := [false, false, false], bit1 := [true] } = .ok (.pixRes0 1) ∧
    decode (.pixel false) { bit2 := [false, false, true], bit1 := [true, false] } = .ok (.pixRes1 2) ∧
    decode (.pixel false) { bit2 := [false, true, false], bit1 := [true, false, false] } = .ok (.pixRes2 4) ∧
    decode (.pixel false) { bit2 := [false, true, true], bit1 := [true, false, false, true] } =
      .ok (.pixRes3 9) := by decide

theorem test_decode_pixel_high :
    decode (.pixel false) { bit2 := [true, false, false], bit1 := [true, false, false, false, true] } =
      .ok (.pixRes4 17) ∧
    decode (.pixel false) { bit2 := [true, false, true], bit1 := [true, false, false, false, false, true] } =
      .ok (.pixRes5 33) ∧
    decode (.pixel false) { bit2 := [true, true, false], bit1 := [true, true, true, true, true, true, true] } =
      .ok (.pixRes6 127) ∧
    decode (.pixel false) { bit2 := [true, true, true], litc := [0xCD, 0xAB] } = .ok (.pixLit 0xABCD) ∧
    decode (.pixel false) { bit2 := [true, true, false], bit1 := [true, true, true, true, true, true] } =
      .error .overrun := by decide

/-- R77: 512 sign bytes, then 512 little-endian magnitudes; the constant table reads nothing. -/
theorem test_decode_table :
    decode (.table true) { tabc := List.replicate 512 0x80 ++ (List.replicate 512 [0x05, 0x01]).flatten } =
      .ok (.dtab (List.replicate 512 0x80) (List.replicate 512 0x0105)) ∧
    decode (.table true) { tabc := List.replicate 1535 0 } = .error .overrun ∧
    decode (.table false) {} = .ok .dtConst := by decide +kernel

/-- R78, R79: macroblock codes `0`, `11`, `101`, `100` with 8 and 7 vector bits, and the copy bit. -/
theorem test_decode_macroblock :
    decode .mb16 { bit1 := [false] } = .ok .mbSub2 ∧
    decode .mb16 { bit1 := [true, true] } = .ok .mbRefCopy ∧
    decode .mb16 { bit1 := [true, false, true] } = .ok .mbMvZero ∧
    decode .mb16 { bit1 := [true, false, false, true, false, false, false, false, false, false, false,
      false, false, false, false, false, false, true] } = .ok (.mbMv 0x80 0x01) ∧
    decode .mb16 { bit1 := [true, false] } = .error .overrun ∧
    decode .mvCopy { bit1 := [true] } = .ok .mbMcCopy ∧
    decode .mvCopy { bit1 := [false] } = .ok .mbMcSub ∧
    decode .gate {} = .ok .gate := by decide

/-- R80: the eight `SUB3` modes; `011`, `101` and `111` read no mask. -/
theorem test_decode_sub3 :
    decode .sub3 { bit1 := [false, false, false], maskc := [0x02, 0x01] } = .ok (.s3Dir0 0x0102) ∧
    decode .sub3 { bit1 := [false, false, true], maskc := [0x02, 0x01] } = .ok (.s3Dir1 0x0102) ∧
    decode .sub3 { bit1 := [false, true, false], maskc := [0x02, 0x01] } = .ok (.s3Dir2 0x0102) ∧
    decode .sub3 { bit1 := [false, true, true] } = .ok .s3Edge ∧
    decode .sub3 { bit1 := [true, false, false], maskc := [0x02, 0x01] } = .ok (.s3ResRef 0x0102) ∧
    decode .sub3 { bit1 := [true, false, true] } = .ok .s3CopyRef ∧
    decode .sub3 { bit1 := [true, true, false], maskc := [0x02, 0x01] } = .ok (.s3ResMv 0x0102) ∧
    decode .sub3 { bit1 := [true, true, true] } = .ok .s3CopyMv := by decide

/-- R81, R82: the four `SUB2` modes, the skip bit of an edge macroblock, and the literals of a partly visible cell. -/
theorem test_decode_sub2_edge :
    decode .sub2 { bit1 := [false, false], maskc := [0x02, 0x01] } = .ok (.s2Dir0 0x0102) ∧
    decode .sub2 { bit1 := [false, true], maskc := [0x02, 0x01] } = .ok (.s2Dir1 0x0102) ∧
    decode .sub2 { bit1 := [true, false], maskc := [0x02, 0x01] } = .ok (.s2Dir2 0x0102) ∧
    decode .sub2 { bit1 := [true, true] } = .ok .s2Edge ∧
    decode .mbEdge { bit1 := [true] } = .ok .embSkip1 ∧
    decode .mbEdge { bit1 := [false] } = .ok .embCells ∧
    decode (.litCell 2) { edgelit := [0x01, 0x02, 0x03, 0x04] } = .ok (.embLitCell [0x0201, 0x0403]) := by decide

/-- R83, R84: `FF` adds 255 and goes on; index 0 is a literal pair, any other a run. -/
theorem test_decode_w2 :
    decode .value { idx := [0xFE] } = .ok (.value 254) ∧
    decode .value { idx := [0xFF, 0x00] } = .ok (.value 255) ∧
    decode .value { idx := [0xFF, 0xFF] } = .error .overrun ∧
    decode (.w2Sym 0) { lit := [0xAA, 0xBB, 0xCC, 0xDD] } = .ok (.w2Lit 0xDDCCBBAA) ∧
    decode (.w2Sym 3) { run := [0xFF, 0x01] } = .ok (.w2Run 3 256) := by decide

/-- R85 with the codes of the model's own sample P14 (log 2). -/
theorem test_decode_depth2 :
    decode .d2Strip1 { d2l := [0x78, 0x56, 0x34, 0x12] } = .ok (.d2Strip1 0x12345678) ∧
    decode (.d2Value (kindCode D2Coding.sample .first 0)) { d2b := [false], d2l := [0x34, 0x12] } =
      .ok (.d2Value [false] (.lit 0x1234)) ∧
    decode (.d2Value (kindCode D2Coding.sample .first 5)) { d2b := [true, false] } =
      .ok (.d2Value [true, false] .backref) ∧
    decode (.d2Value (kindCode D2Coding.sample .first 5)) { d2b := [true, true], d2key := [0x02] } =
      .ok (.d2Value [true, true] (.xor 2)) ∧
    decode (.d2Dist .keep .byte) { d2b := [false] } = .ok (.d2Dist false .keep) ∧
    decode (.d2Dist .keep .byte) { d2b := [true], d2dist := [0x10] } = .ok (.d2Dist true (.byte 0x10)) ∧
    decode (.d2Dist .half .byte) { d2b := [false], d2dist := [0x10, 0x01] } =
      .ok (.d2Dist false (.half 0x0110)) := by decide

theorem test_decode_depth2_strips :
    decode (.d2StripSel D2Coding.sample.selector) { d2b := [true, false] } = .ok (.d2StripSel [true, false] .back) ∧
    decode (.d2StripSel D2Coding.sample.selector) { d2b := [true, true, true] } = .error .badSelector ∧
    decode (.d2Body .verb false) { d2l := List.replicate 17 0xA5 } = .ok (.d2Verb (List.replicate 16 0xA5)) ∧
    decode (.d2Body .back false) {} = .ok .d2Back ∧
    decode (.d2Body .strip2 true) { d2b := [true, false, false, false, false, false, false, true] } =
      .ok (.d2Strip2 true 0x81) ∧
    decode (.d2Body .strip2 false) { d2mask := [0x81] } = .ok (.d2Strip2 false 0x81) ∧
    decode (.d2Tail 2) { d2l := [1, 2, 3] } = .ok (.d2Tail [1, 2]) := by decide

/-- 46_orchestrator.md R259: the order of the dispatch conditions; and the two host commands. -/
theorem test_decode_dispatch_command :
    decode (.dispatch true true true true 1) {} = .ok .dispatchExtra ∧
    decode (.dispatch false true true false 0) {} = .ok .dispatchIntra ∧
    decode (.dispatch false true false false 0) {} = .ok .dispatchInter ∧
    decode (.dispatch false false false false 1) {} = .ok .dispatchMode ∧
    decode (.dispatch false false false true 1) {} = .ok .dispatchW2D1 ∧
    decode (.dispatch false false false true 2) {} = .ok .dispatchW2D2 ∧
    decode (.dispatch false false false true 3) {} = .error .badDepth ∧
    decode .command { cmd := some .reset } = .ok .reset ∧
    decode .command { cmd := some (.decode [0x51] 8 32) } = .ok (.decode [0x51] 8 32) := by decide

/-! ## Small states -/

/-- The outcome is a next state with this property. -/
def gives (o : Host.Outcome State Fault Refusal) (p : State → Bool) : Bool :=
  match o with
  | .next t => p t
  | _ => false

/-- The outcome is this refusal. -/
def refuses (o : Host.Outcome State Fault Refusal) (r : Refusal) : Bool :=
  match o with
  | .refused r' => r' == r
  | _ => false

/-- The outcome is this fault. -/
def faults (o : Host.Outcome State Fault Refusal) (f : Fault) : Bool :=
  match o with
  | .fault f' => f' == f
  | _ => false

/-- The outcome ends the DECODE with this code and leaves `REF` as it was. -/
def ends (o : Host.Outcome State Fault Refusal) (s : State) (c : Code) : Bool :=
  gives o fun t => t.status == { phase := .done, code := c } && t.seq.stage == .idle && t.ref == s.ref

/-- A DECODE of `packet` at control point `stage`, with header `h` and every working register written. -/
def atStage (stage : Stage) (h : Header) (packet : List Byte) : State :=
  { State.reset with
    status := { phase := .busy, code := .ok }
    hdr := h
    seq := { Seq.atRest with stage := stage }
    written := allRegs
    pkt := packetMemory packet
    len := packet.length
    stride := 2 * h.w.toNat
    cap := 2 * h.w.toNat * h.h.toNat }

/-- A header of a `w x h` frame with an open gate. -/
def sized (w h : Half) : Header := { Header.zero with w := w, h := h, qpGate := true }

/-- A `w x h` frame inside its family's unit: `BIT1` (and `D2B`) over bytes 0-3, `BIT2` over bytes 4-5,
every byte cursor over the rest; a valid `REF` whose first two pixels are `AA` and `BB`. -/
def body (w h : Half) (unit : SeqUnit) (stage : Stage) (packet : List Byte) : State :=
  let cur : ByteCursor := { mem := .packet, start := 6, stop := packet.length, pos := 6 }
  let bank : ByteBank := { p0 := cur, p1 := cur, p2 := cur, p3 := cur }
  let s := atStage stage (sized w h) packet
  { s with
    ref := { valid := true, w := w, h := h, pix := [(pixKey 0 0, 0x00AA), (pixKey 1 0, 0x00BB)] }
    seq := { s.seq with unit := unit }
    bit1 := { mem := .packet, start := 0, stop := 4, bitpos := 0 }
    bit2 := { mem := .packet, start := 4, stop := 6, bitpos := 0 }
    d2b := { mem := .packet, start := 0, stop := 4, bitpos := 0 }
    a9 := bank
    tab := cur
    idx := cur
    lit := cur
    d2 := bank
    n := w.toNat * h.toNat }

/-- The same state at tile, macroblock `t`, sub-block `sb`, pixel `p`. -/
def at_ (s : State) (t sb p : Nat) : State := { s with seq := { s.seq with t := t, s := sb, p := p } }

/-- A depth-2 frame under the model's sample P14 (log 2), its `IBUF` of 64 bytes filled up to `ipos` with
1, 2, 3, … -/
def strips (stage : Stage) (ipos dist : Nat) (packet : List Byte) : State :=
  { body 4 4 .w2d2 stage packet with
    cfg := { Config.tc0 with d2 := some D2Coding.sample }
    size := 64
    ibuf := Memory.setBytes [] 0 ((List.range ipos).map fun k => BitVec.ofNat 8 (k + 1))
    ipos := ipos
    dist := dist }

/-- A header of 12 bytes: magic, version 0x0B, raw type 0, W2 depth 1, 4x4 (95_test_vectors.md, program P1). -/
def header12 : List Byte := [0x51, 0x4D, 0x0B, 0x00, 0x00, 0x11, 0x04, 0x00, 0x04, 0x00, 0x00, 0x00]

/-- The packet of program P1 (95_test_vectors.md 3.1). -/
def packetP1 : List Byte :=
  header12 ++ [0, 0, 0, 0, 1, 0, 0, 0, 4, 0, 0, 0, 0, 0, 0, 0, 0x00, 0xAA, 0xBB, 0xCC, 0xDD]

/-! ## One step of each instruction -/

/-- 95_test_vectors.md H1, H3. -/
theorem test_step_hdrLen : gives (step (atStage (.hdr .len) Header.zero header12)) (fun t => t.seq.stage == .hdr .magic) ∧
    ends (step (atStage (.hdr .len) Header.zero (header12.take 11))) State.reset .invalidData := by decide +kernel

theorem test_step_hdrMagic :
    gives (step (atStage (.hdr .magic) Header.zero header12)) (fun t => t.seq.stage == .hdr .version) ∧
    ends (step (atStage (.hdr .magic) Header.zero (0x4D :: 0x51 :: header12.drop 2))) State.reset .invalidData := by
  decide +kernel

/-- H5: legacy up to and including 0x0B. -/
theorem test_step_hdrVersion :
    gives (step (atStage (.hdr .version) Header.zero header12)) (fun t => t.hdr.version == 0x0B && t.hdr.legacy) ∧
    gives (step (atStage (.hdr .version) Header.zero [0x51, 0x4D, 0x0C])) (fun t => !t.hdr.legacy) := by decide +kernel

/-- H6. -/
theorem test_step_hdrRawType :
    gives (step (atStage (.hdr .rawType) Header.zero [0x51, 0x4D, 0x0B, 0x02])) (fun t => t.hdr.rawType == 2) ∧
    ends (step (atStage (.hdr .rawType) Header.zero [0x51, 0x4D, 0x0B, 0x01])) State.reset .unsupported := by
  decide +kernel

/-- H8, H9: the modern layout has a dynamic table and three mode bits; the legacy one none and four. -/
theorem test_step_hdrFlagsAB :
    gives (step (atStage (.hdr .flagsAB) { Header.zero with legacy := true } [0, 0, 0, 0, 0x08, 0x1F]))
      (fun t => !t.hdr.dynamicTable && t.hdr.encoderMode == 15 && t.hdr.depth == 1) ∧
    gives (step (atStage (.hdr .flagsAB) Header.zero [0, 0, 0, 0, 0x08, 0x1F]))
      (fun t => t.hdr.dynamicTable && t.hdr.encoderMode == 7 && !t.hdr.animated) := by decide +kernel

/-- H10. -/
theorem test_step_hdrDims :
    gives (step (atStage (.hdr .dims) Header.zero [0, 0, 0, 0, 0, 0, 0x34, 0x12, 0x78, 0x56]))
      (fun t => t.hdr.w == 0x1234 && t.hdr.h == 0x5678) ∧
    ends (step (atStage (.hdr .dims) Header.zero [0, 0, 0, 0, 0, 0, 0x01, 0x00, 0x00, 0x00])) State.reset
      .invalidData := by decide +kernel

theorem test_step_hdrFlagsCD :
    gives (step (atStage (.hdr .flagsCD) Header.zero [0, 0, 0, 0, 0, 0, 0, 0, 0, 0, 0x05, 0x03]))
      (fun t => t.hdr.indexColor && t.hdr.gray && t.hdr.androidSupport && !t.hdr.ninePatch && t.hdr.flagsD == 3) := by
  decide +kernel

/-- H11 and R107: an animated frame has an alpha field even without transparency. -/
theorem test_step_hdrAlphaPresent :
    gives (step (atStage (.hdr .alphaPresent) { Header.zero with animated := true } []))
      (fun t => t.hdr.alphaField && t.seq.stage == .hdr .alpha) ∧
    gives (step (atStage (.hdr .alphaPresent) Header.zero []))
      (fun t => !t.hdr.alphaField && t.seq.stage == .hdr .first) := by decide +kernel

/-- H12: a legacy offset is not scaled. -/
theorem test_step_hdrAlphaLegacy :
    gives (step (atStage (.hdr .alpha) { Header.zero with legacy := true, alphaField := true, transparency := true }
      (header12 ++ [0x10, 0, 0, 0]))) (fun t => t.hdr.alphaBytes == 16 && t.seq.stage == .hdr .first) := by
  decide +kernel

/-- H13, H15: 6 becomes 24; in a later frame of an animation 9 stays 9. -/
theorem test_step_hdrAlphaModern :
    gives (step (atStage (.hdr .scale) { Header.zero with alphaField := true, transparency := true, alphaRaw := 6 }
      (header12 ++ [6, 0, 0xEE, 0]))) (fun t => t.hdr.alphaBytes == 24) ∧
    gives (step (atStage (.hdr .scale)
      { Header.zero with alphaField := true, animated := true, currentFrame := 1, alphaRaw := 9 }
      (header12 ++ [9, 0, 0, 0]))) (fun t => t.hdr.alphaBytes == 9) := by decide +kernel

/-- H17, H18. -/
theorem test_step_hdrAnim :
    gives (step (atStage (.hdr .anim) { Header.zero with animated := true }
      (header12 ++ [0, 0, 0, 0, 0x0A, 0, 0x02, 0x01, 0x64, 0, 0x01, 0xFF])))
      (fun t => t.hdr.totalFrames == 10 && t.hdr.currentFrame == 0x0102 && t.hdr.delayMs == 100 && t.hdr.noRepeat == 1) ∧
    ends (step (atStage (.hdr .anim) { Header.zero with animated := true } (header12 ++ List.replicate 8 0)))
      State.reset .invalidData := by decide +kernel

/-- R111: with the nine-patch word the colour count is the second word. -/
theorem test_step_hdrIndex :
    gives (step (atStage (.hdr .index) { Header.zero with indexColor := true, ninePatch := true, headerSize := 12 }
      (header12 ++ [1, 0, 0, 0, 0, 1, 0, 0]))) (fun t => t.hdr.colorCount == 256 && t.hdr.dataStart == 12) := by
  decide +kernel

/-- R112: 12, with alpha 16, with animation 24. -/
theorem test_step_hdrSize :
    gives (step (atStage (.hdr .size) Header.zero [])) (fun t => t.hdr.headerSize == 12) ∧
    gives (step (atStage (.hdr .size) { Header.zero with alphaField := true, animated := true } []))
      (fun t => t.hdr.headerSize == 24 && t.hdr.dataStart == 24) := by decide +kernel

/-- H19, H20. -/
theorem test_step_hdrXval :
    gives (step (atStage (.hdr .xval) { Header.zero with alphaField := true, headerSize := 16, alphaBytes := 4 }
      (List.replicate 20 0))) (fun t => t.seq.stage == .hdr .dataEnd) ∧
    ends (step (atStage (.hdr .xval) { Header.zero with alphaField := true, headerSize := 16, alphaBytes := 5 }
      (List.replicate 20 0))) State.reset .invalidData := by decide +kernel

/-- H11, H12. -/
theorem test_step_hdrDataEnd :
    gives (step (atStage (.hdr .dataEnd) { Header.zero with alphaField := true, headerSize := 16, alphaBytes := 16 }
      (List.replicate 40 0))) (fun t => t.hdr.dataEnd == 32) ∧
    gives (step (atStage (.hdr .dataEnd) { Header.zero with headerSize := 12 } (List.replicate 40 0)))
      (fun t => t.hdr.dataEnd == 40) := by decide +kernel

/-- H21. -/
theorem test_step_hdrQpGate :
    gives (step (atStage (.hdr .qpGate) Header.zero [])) (fun t => t.hdr.qpGate && t.seq.stage == .orchestrate) ∧
    gives (step (atStage (.hdr .qpGate) { Header.zero with flagsD := 3 } [])) (fun t => !t.hdr.qpGate) := by
  decide +kernel

/-- H14, H15: P12 is `current_frame = 0`. -/
theorem test_step_hdrFirst :
    gives (step (atStage (.hdr .first) { Header.zero with animated := true, alphaField := true } []))
      (fun t => t.hdr.isFirst && t.seq.stage == .hdr .scale) ∧
    gives (step (atStage (.hdr .first) { Header.zero with animated := true, currentFrame := 1 } []))
      (fun t => !t.hdr.isFirst) := by decide +kernel

/-- R146, R150-R152 and P7 of TC0: modes 00, 01, 10 predict up, left, up-left; mask `FFD0` from `D0 FF`. -/
theorem test_step_tile2 :
    gives (step (body 8 4 .a9llIntra .tile [0x00, 0, 0, 0, 0, 0, 0xD0, 0xFF]))
      (fun t => t.mask == 0xFFD0 && t.seq.stage == .pixel (.dir .up) .frame && t.bit1.bitpos == 2) ∧
    gives (step (body 8 4 .a9llIntra .tile [0x40, 0, 0, 0, 0, 0, 0xD0, 0xFF]))
      (fun t => t.seq.stage == .pixel (.dir .left) .frame && t.a9.p0.pos == 8) ∧
    gives (step (body 8 4 .a9llIntra .tile [0x80, 0, 0, 0, 0, 0, 0xD0, 0xFF]))
      (fun t => t.seq.stage == .pixel (.dir .upLeft) .frame && t.seq.p == 0) := by decide +kernel

/-- T7, T8: the column to the left is replicated; at `x0 = 0` nothing is written.  No mask is read. -/
theorem test_step_tile2Edge :
    gives (step { at_ (body 8 4 .a9llIntra .tile [0xC0, 0, 0, 0, 0, 0]) 1 0 0 with
        frame := [(pixKey 3 0, 1), (pixKey 3 1, 2), (pixKey 3 2, 3), (pixKey 3 3, 4)] })
      (fun t => t.frame.at 4 0 == 1 && t.frame.at 7 1 == 2 && t.frame.at 5 2 == 3 && t.frame.at 7 3 == 4 &&
        t.seq.stage == .complete) ∧
    gives (step (body 8 4 .a9llIntra .tile [0xC0, 0, 0, 0, 0, 0])) (fun t => t.frame == [] && t.seq.t == 1) := by
  decide +kernel

/-- T3: the mask bit of position 5 is set, and pixel (5, 1) copies (4, 1). -/
theorem test_step_pixCopy :
    gives (step { at_ (body 8 4 .a9llIntra (.pixel (.dir .left) .frame) [0, 0, 0, 0, 0, 0]) 1 0 5 with
        mask := 0x0020, frame := [(pixKey 4 1, 7)] })
      (fun t => t.frame.at 5 1 == 7 && t.frame.at 4 1 == 7 && t.seq.p == 6 && t.bit2.bitpos == 0) := by decide +kernel

/-- R147: outside the image the predictor is 0 (T1). -/
theorem test_step_pixCopy_outside :
    gives (step { body 8 4 .a9llIntra (.pixel (.dir .up) .frame) [0, 0, 0, 0, 0, 0] with
        mask := 0x0001, frame := [(pixKey 0 0, 9)] }) (fun t => t.frame.at 0 0 == 0) := by decide +kernel

/-- A tile whose table is `DT[k] = k + 1`, at position 0 with a clear mask bit and `BIT2`, `BIT1` as given. -/
def residualState (bit1 bit2 : Byte) : State :=
  { at_ (body 8 8 .a9llIntra (.pixel (.dir .up) .frame) [bit1, 0, 0, 0, bit2, 0]) 2 0 0 with
    dt := (List.range 511).map fun k => BitVec.ofNat 16 (k + 1), frame := [(pixKey 0 3, 0x1000)] }

/-- 95_test_vectors.md 1.4: the largest index of each class reads `DT` at 1, 5, 13, 29. -/
theorem test_step_pixRes_low :
    gives (step (residualState 0x80 0x00)) (fun t => t.frame.at 0 4 == 0x1002 && t.bit1.bitpos == 1) ∧
    gives (step (residualState 0xC0 0x20)) (fun t => t.frame.at 0 4 == 0x1006 && t.bit1.bitpos == 2) ∧
    gives (step (residualState 0xE0 0x40)) (fun t => t.frame.at 0 4 == 0x100E && t.bit1.bitpos == 3) ∧
    gives (step (residualState 0xF0 0x60)) (fun t => t.frame.at 0 4 == 0x101E && t.bit1.bitpos == 4) := by
  decide +kernel

/-- 95_test_vectors.md 1.4: the largest index of classes 4 to 6 reads `DT` at 61, 125, 253. -/
theorem test_step_pixRes_high :
    gives (step (residualState 0xF8 0x80)) (fun t => t.frame.at 0 4 == 0x103E && t.bit1.bitpos == 5) ∧
    gives (step (residualState 0xFC 0xA0)) (fun t => t.frame.at 0 4 == 0x107E && t.bit1.bitpos == 6) ∧
    gives (step (residualState 0xFE 0xC0)) (fun t => t.frame.at 0 4 == 0x10FE && t.bit1.bitpos == 7 &&
      t.bit2.bitpos == 3 && t.seq.p == 1) := by decide +kernel

/-- 95_test_vectors.md 1.5: `u16(0xFFFF + DT[1])` with `DT[1] = u16(-2)` is `0xFFFD`. -/
theorem test_step_pixRes_wraps :
    gives (step { residualState 0x80 0x00 with dt := [0xFFFF, 0xFFFE], frame := [(pixKey 0 3, 0xFFFF)] })
      (fun t => t.frame.at 0 4 == 0xFFFD) := by decide +kernel

/-- T4: a literal pixel, low byte first. -/
theorem test_step_pixLit :
    gives (step (body 8 4 .a9llIntra (.pixel (.dir .left) .frame) [0, 0, 0, 0, 0xE0, 0, 0xEF, 0xBE]))
      (fun t => t.frame.at 0 0 == 0xBEEF && t.bit2.bitpos == 3 && t.bit1.bitpos == 0 && t.a9.p0.pos == 8) := by
  decide +kernel

/-- 95_test_vectors.md 1.5, single pairs; pair 0 is discarded. -/
theorem test_step_dtab :
    gives (exec (.dtab ([0x01, 0x01, 0x00, 0x80] ++ List.replicate 508 0) ([0x0099, 5, 5, 0x8000] ++ List.replicate 508 0))
        { body 8 4 .a9llIntra .table (List.replicate 1542 0) with hdr := { sized 8 4 with dynamicTable := true } })
      (fun t => t.dt.take 3 == [0x0005, 0xFFFB, 0x8000] && t.dt.length == 511 && t.a9.p0.pos == 1542 &&
        t.seq.stage == .tile) := by decide +kernel

/-- I5: table 0 up to version 0x0B, table 1 above it. -/
theorem test_step_dtConst :
    gives (step { body 8 4 .a9llInter .table [] with
        cfg := { Config.tc0 with delta1 := List.replicate 511 7 }, hdr := { sized 8 4 with version := 0x0C } })
      (fun t => t.dt == List.replicate 511 7 && t.seq.stage == .mb) ∧
    gives (step { body 8 4 .a9llIntra .table [] with
        cfg := { Config.tc0 with delta0 := List.replicate 511 5 }, hdr := { sized 8 4 with version := 0x0B } })
      (fun t => t.dt == List.replicate 511 5 && t.seq.stage == .tile) := by decide +kernel

/-- M1: the reference at the same position; the next macroblock is next. -/
theorem test_step_mbRefCopy :
    gives (step (body 32 16 .a9llInter .mb [0xC0, 0, 0, 0, 0, 0]))
      (fun t => t.frame == [(pixKey 0 0, 0x00AA), (pixKey 1 0, 0x00BB)] && t.seq.t == 1 && t.seq.stage == .mb &&
        t.bit1.bitpos == 2) := by decide +kernel

/-- M2. -/
theorem test_step_mbMvZero :
    gives (step { body 16 16 .a9llInter .mb [0xA0, 0, 0, 0, 0, 0] with mv := { x := 5, y := 5 } })
      (fun t => t.mv == { x := 0, y := 0 } && t.seq.stage == .mvCopy && t.bit1.bitpos == 3) := by decide +kernel

/-- V4, B3: fields `8F`, `3F` are `(16, 0)`; macroblock `(0, 0)` of a 32x16 frame stays inside. -/
theorem test_step_mbMv_inside :
    gives (step (body 32 16 .a9llInter .mb [0x91, 0xEF, 0xC0, 0, 0, 0]))
      (fun t => t.mv == { x := 16, y := 0 } && t.seq.stage == .mvCopy && t.bit1.bitpos == 18) := by decide +kernel

/-- V6, B1: fields `7F`, `43` are `(0, 4)`, which leaves a 16x16 frame: a soft skip. -/
theorem test_step_mbMv_outside :
    gives (step (body 16 16 .a9llInter .mb [0x8F, 0xF0, 0xC0, 0, 0, 0]))
      (fun t => t.mv == { x := 0, y := 4 } && t.seq.stage == .complete && t.frame == [] &&
        t.status.phase == .busy) := by decide +kernel

/-- R175: the reference at the vector. -/
theorem test_step_mbMcCopy :
    gives (step { at_ (body 32 16 .a9llInter .mvCopy [0x80, 0, 0, 0, 0, 0]) 1 0 0 with mv := { x := -15, y := 0 } })
      (fun t => t.frame.at 16 0 == 0x00BB && t.frame.at 0 0 == 0 && t.bit1.bitpos == 1) := by decide +kernel

/-- M3, M5: the gate is next. -/
theorem test_step_openers :
    gives (step (body 16 16 .a9llInter .mvCopy [0x00, 0, 0, 0, 0, 0])) (fun t => t.seq.stage == .gate .sub3) ∧
    gives (step (body 16 16 .a9llInter .mb [0x00, 0, 0, 0, 0, 0])) (fun t => t.seq.stage == .gate .sub2) ∧
    gives (step (body 6 4 .a9llInter .mb [0x00, 0, 0, 0, 0, 0])) (fun t => t.seq.stage == .gate .cells) := by
  decide +kernel

/-- S7: a closed gate is `UNSUPPORTED`; an open one starts sub-block 0. -/
theorem test_step_gate :
    gives (step (at_ (body 16 16 .a9llInter (.gate .sub3) []) 0 7 3))
      (fun t => t.seq.stage == .sub .sub3 && t.seq.s == 0 && t.seq.p == 0) ∧
    ends (step { body 16 16 .a9llInter (.gate .sub2) [] with hdr := Header.zero })
      (body 16 16 .a9llInter (.gate .sub2) []) .unsupported := by decide +kernel

/-- R179, R181, R183: the predictors of the masked `SUB3` modes. -/
theorem test_step_sub3_masked :
    gives (step (body 16 16 .a9llInter (.sub .sub3) [0x00, 0, 0, 0, 0, 0, 0xFE, 0xFF]))
      (fun t => t.seq.stage == .pixel (.dir .up) (.within .sub3) && t.mask == 0xFFFE) ∧
    gives (step (body 16 16 .a9llInter (.sub .sub3) [0x20, 0, 0, 0, 0, 0, 0xFE, 0xFF]))
      (fun t => t.seq.stage == .pixel (.dir .left) (.within .sub3)) ∧
    gives (step (body 16 16 .a9llInter (.sub .sub3) [0x40, 0, 0, 0, 0, 0, 0xFE, 0xFF]))
      (fun t => t.seq.stage == .pixel (.dir .upLeft) (.within .sub3)) ∧
    gives (step (body 16 16 .a9llInter (.sub .sub3) [0x80, 0, 0, 0, 0, 0, 0xFE, 0xFF]))
      (fun t => t.seq.stage == .pixel .ref (.within .sub3)) ∧
    gives (step (body 16 16 .a9llInter (.sub .sub3) [0xC0, 0, 0, 0, 0, 0, 0xFE, 0xFF]))
      (fun t => t.seq.stage == .pixel .refMv (.within .sub3) && t.bit1.bitpos == 3) := by decide +kernel

/-- S2, S4, S5: a copy at the same position, a copy at the vector, an edge mode at `X = 0`. -/
theorem test_step_sub3_copies :
    gives (step (body 16 16 .a9llInter (.sub .sub3) [0xA0, 0, 0, 0, 0, 0]))
      (fun t => t.frame == [(pixKey 0 0, 0x00AA), (pixKey 1 0, 0x00BB)] && t.seq.s == 1) ∧
    gives (step { body 16 16 .a9llInter (.sub .sub3) [0xE0, 0, 0, 0, 0, 0] with mv := { x := 1, y := 0 } })
      (fun t => t.frame == [(pixKey 0 0, 0x00BB)] && t.bit1.bitpos == 3) ∧
    gives (step (body 16 16 .a9llInter (.sub .sub3) [0x60, 0, 0, 0, 0, 0]))
      (fun t => t.frame == [] && t.seq.s == 1) := by decide +kernel

/-- R183, R192: a residual pixel on the reference at the vector. -/
theorem test_step_sub3_refMv_pixel :
    gives (step { body 16 16 .a9llInter (.pixel .refMv (.within .sub3)) [0, 0, 0, 0, 0, 0] with
        mv := { x := 1, y := 0 }, mask := 0x0001 }) (fun t => t.frame.at 0 0 == 0x00BB) := by decide +kernel

/-- R185: the masked `SUB2` modes, in a full macroblock and in a whole cell of an edge one. -/
theorem test_step_sub2_masked :
    gives (step (body 16 16 .a9llInter (.sub .sub2) [0x00, 0, 0, 0, 0, 0, 1, 0]))
      (fun t => t.seq.stage == .pixel (.dir .up) (.within .sub2) && t.bit1.bitpos == 2) ∧
    gives (step (body 16 16 .a9llInter (.sub .sub2) [0x40, 0, 0, 0, 0, 0, 1, 0]))
      (fun t => t.seq.stage == .pixel (.dir .left) (.within .sub2)) ∧
    gives (step (body 6 4 .a9llInter (.sub .cells) [0x80, 0, 0, 0, 0, 0, 1, 0]))
      (fun t => t.seq.stage == .pixel (.dir .upLeft) (.within .cells)) := by decide +kernel

/-- S10: cell `(0, 0)` of a 6x4 frame in mode 3 is left alone; the next visible cell is `(4, 0)`. -/
theorem test_step_sub2_edge :
    gives (step (body 6 4 .a9llInter (.sub .cells) [0xC0, 0, 0, 0, 0, 0])) (fun t => t.frame == [] && t.seq.s == 1) ∧
    gives (step (at_ (body 16 16 .a9llInter (.sub .sub2) [0xC0, 0, 0, 0, 0, 0]) 0 15 0))
      (fun t => t.seq.stage == .complete) := by decide +kernel

/-- S13. -/
theorem test_step_embSkip1 :
    ends (step (body 6 4 .a9llInter .mb [0x80, 0, 0, 0, 0, 0])) (body 6 4 .a9llInter .mb []) .unsupported := by
  decide +kernel

/-- S10, S12: eight literals for cell `(4, 0)` of a 6x4 frame; one for cell `(16, 16)` of a 17x17 frame. -/
theorem test_step_embLitCell :
    gives (step (at_ (body 6 4 .a9llInter (.sub .cells) ([0, 0, 0, 0, 0, 0] ++
        [1, 0, 2, 0, 3, 0, 4, 0, 5, 0, 6, 0, 7, 0, 8, 0])) 0 1 0))
      (fun t => t.frame.at 4 0 == 1 && t.frame.at 5 0 == 2 && t.frame.at 4 1 == 3 && t.frame.at 5 3 == 8 &&
        t.seq.stage == .complete && t.a9.p0.pos == 22) ∧
    gives (step (at_ (body 17 17 .a9llInter (.sub .cells) [0, 0, 0, 0, 0, 0, 0x34, 0x12]) 3 0 0))
      (fun t => t.frame == [(pixKey 16 16, 0x1234)] && t.seq.stage == .complete) := by decide +kernel

/-- RD12, RD13. -/
theorem test_step_value :
    gives (step (body 4 4 .w2d1 .w2Index [0, 0, 0, 0, 0, 0, 0xFF, 0xFF, 0x03]))
      (fun t => t.seq.stage == .w2Sym 513 && t.idx.pos == 9) ∧
    ends (step (body 4 4 .w2d1 .w2Index [0, 0, 0, 0, 0, 0, 0xFF])) (body 4 4 .w2d1 .w2Index []) .invalidData := by
  decide +kernel

/-- W1, W10: a pair is its low half, then its high half; a half without a pixel is dropped, its bytes are not. -/
theorem test_step_w2Lit :
    gives (step (body 4 4 .w2d1 (.w2Sym 0) [0, 0, 0, 0, 0, 0, 0xAA, 0xBB, 0xCC, 0xDD]))
      (fun t => t.frame.at 0 0 == 0xBBAA && t.frame.at 1 0 == 0xDDCC && t.k == 2) ∧
    gives (step { body 3 1 .w2d1 (.w2Sym 0) [0, 0, 0, 0, 0, 0, 3, 0, 4, 0] with k := 2 })
      (fun t => t.frame == [(pixKey 2 0, 3)] && t.k == 3 && t.lit.pos == 10 && t.seq.stage == .complete) := by
  decide +kernel

/-- The index, table and literal regions of one depth-1 frame, as W2 to W6 lay them out. -/
def runState (idxBytes : List Byte) : State :=
  let p : List Byte := [0x11, 0x22, 0x33, 0x44] ++ idxBytes
  { body 4 4 .w2d1 (.w2Sym 1) p with
    tab := { mem := .packet, start := 0, stop := 4, pos := 0 }
    idx := { mem := .packet, start := 4, stop := p.length, pos := 4 } }

/-- W2, W4, W5: a run of the entry's pair; a run past the frame stops at `K = N`; an entry outside the table. -/
theorem test_step_w2Run :
    gives (step (runState [7, 0]))
      (fun t => t.k == 14 && t.frame.at 0 0 == 0x2211 && t.frame.at 1 3 == 0x4433 && t.frame.at 2 3 == 0 &&
        t.seq.stage == .w2Index && t.entry == 0x44332211 && t.run == 7) ∧
    gives (step (runState [0xFF, 0xFF, 0x03])) (fun t => t.k == 16 && t.seq.stage == .complete) ∧
    ends (step { runState [1] with seq := { Seq.atRest with stage := .w2Sym 2 } }) (body 4 4 .w2d1 .w2Index [])
      .invalidData := by decide +kernel

/-- W3: a run of length 0 emits nothing. -/
theorem test_step_w2Run_zero :
    gives (step (runState [0])) (fun t => t.k == 0 && t.frame == [] && t.seq.stage == .complete) := by decide +kernel

/-- R222: the literal's bytes lowest first, `IPOS = 4`, a distance update next. -/
theorem test_step_d2Strip1 :
    gives (step (strips .d2Strip1 0 1 [0, 0, 0, 0, 0, 0, 0x78, 0x56, 0x34, 0x12]))
      (fun t => t.ibuf == [(0, 0x78), (1, 0x56), (2, 0x34), (3, 0x12)] && t.ipos == 4 &&
        t.seq.stage == .d2Dist .first 0) := by decide +kernel

/-- Q12, and R223's back-reference two bytes at a time. -/
theorem test_step_d2Value :
    gives (step (strips (.d2Value .first 1) 4 1 [0x00, 0, 0, 0, 0, 0, 0x34, 0x12]))
      (fun t => Store.get t.ibuf 4 == 0x34 && Store.get t.ibuf 5 == 0x12 && t.ipos == 6 &&
        t.seq.stage == .d2Dist .first 2) ∧
    gives (step (strips (.d2Value .first 1) 4 3 [0x80, 0, 0, 0, 0, 0]))
      (fun t => Store.get t.ibuf 4 == 2 && Store.get t.ibuf 5 == 3 && t.d2b.bitpos == 2) := by decide +kernel

/-- R223: table entry 1 (`00FF`) XORed with the bytes `02 03` at distance 3; and Q10. -/
theorem test_step_d2Value_xor :
    gives (step (strips (.d2Value .first 1) 4 3 [0xC0, 0, 0, 0, 0, 0, 0x01]))
      (fun t => Store.get t.ibuf 4 == 0xFD && Store.get t.ibuf 5 == 3) ∧
    ends (step (strips (.d2Value .first 1) 4 0 [0x80, 0, 0, 0, 0, 0])) (strips (.d2Value .first 1) 4 0 [])
      .invalidData := by decide +kernel

/-- R224: flag 0 keeps the distance, flag 1 reads a byte (the sample P14). -/
theorem test_step_d2Dist :
    gives (step (strips (.d2Dist .first 0) 4 3 [0x00, 0, 0, 0, 0, 0, 0x09]))
      (fun t => t.dist == 3 && t.seq.stage == .d2Value .first 0 && t.d2.p1.pos == 6) ∧
    gives (step (strips (.d2Dist .first 0) 4 3 [0x80, 0, 0, 0, 0, 0, 0x09]))
      (fun t => t.dist == 9 && t.d2.p1.pos == 7 && t.d2b.bitpos == 1) := by decide +kernel

/-- R226 with the sample selector. -/
theorem test_step_d2StripSel :
    gives (step (strips .d2Sel 16 3 [0x00, 0, 0, 0, 0, 0])) (fun t => t.seq.stage == .d2Body .verb) ∧
    ends (step (strips .d2Sel 16 3 [0xE0, 0, 0, 0, 0, 0])) (strips .d2Sel 16 3 []) .invalidData := by decide +kernel

/-- R227 and Q11. -/
theorem test_step_d2Verb :
    gives (step (strips (.d2Body .verb) 16 3 ([0, 0, 0, 0, 0, 0] ++ List.replicate 16 0xA5)))
      (fun t => Store.get t.ibuf 16 == 0xA5 && Store.get t.ibuf 31 == 0xA5 && Store.get t.ibuf 32 == 0 && t.ipos == 32) ∧
    ends (step (strips (.d2Body .verb) 16 3 ([0, 0, 0, 0, 0, 0] ++ List.replicate 15 0xA5)))
      (strips (.d2Body .verb) 16 3 []) .invalidData := by decide +kernel

/-- Q8, Q9: a distance of 4 repeats the last four bytes; a source before the start raises `INVALID_DATA`. -/
theorem test_step_d2Back :
    gives (step (strips (.d2Body .back) 16 4 [0, 0, 0, 0, 0, 0]))
      (fun t => Store.get t.ibuf 16 == 13 && Store.get t.ibuf 19 == 16 && Store.get t.ibuf 20 == 13 &&
        Store.get t.ibuf 31 == 16 && t.ipos == 32) ∧
    ends (step (strips (.d2Body .back) 16 17 [0, 0, 0, 0, 0, 0])) (strips (.d2Body .back) 16 17 []) .invalidData := by
  decide +kernel

/-- R229: the mask byte opens the eight values. -/
theorem test_step_d2Strip2 :
    gives (step (strips (.d2Body .strip2) 16 3 [0, 0, 0, 0, 0, 0, 0x81]))
      (fun t => t.seq.stage == .d2Dist (.later 0x81) 0 && t.d2.p3.pos == 7) := by decide +kernel

/-- Q2, Q3, Q13: the tail fills `IBUF`,
    and the nested pass starts over it: here the 21 bytes of 95_test_vectors.md 1.8. -/
theorem test_step_d2Tail :
    gives (step { strips .d2Tail 16 3 [0, 0, 0, 0, 0, 0, 0x00, 0xAA, 0xBB, 0xCC, 0xDD] with
        size := 21, ibuf := [(4, 1), (8, 4)] })
      (fun t => t.idx == { mem := .ibuf, start := 16, stop := 17, pos := 16 } &&
        t.lit == { mem := .ibuf, start := 17, stop := 21, pos := 17 } && t.ipos == 21 && t.seq.stage == .w2Index) := by
  decide +kernel

/-- R233: the nested pass's header is at `IBUF[0]`, wherever P13 puts it in `P` (log 16). -/
theorem test_step_d2Tail_header_offset :
    gives (step { strips .d2Tail 16 3 [0, 0, 0, 0, 0, 0, 0x00, 0xAA, 0xBB, 0xCC, 0xDD] with
        cfg := { Config.tc0 with
          d2 := some D2Coding.sample, w2Layout := { Config.tc0.w2Layout with regions := .header 4 false } }
        size := 21, ibuf := [(4, 1), (8, 4)] })
      (fun t => t.idx == { mem := .ibuf, start := 16, stop := 17, pos := 16 }) := by decide +kernel

/-- R125 and D36: regions that share a byte are no reader set; empty ones share none. -/
theorem test_reader_sets_disjoint :
    w2Ok { tab := { start := 28, stop := 32 }, idx := { start := 31, stop := 33 }, lit := { start := 33, stop := 33 },
           valid := true } 12 33 = false ∧
    w2Ok { tab := { start := 28, stop := 32 }, idx := { start := 32, stop := 33 }, lit := { start := 30, stop := 30 },
           valid := true } 12 33 = true := by decide

/-- The header of an animated frame at the dispatch. -/
def animatedHeader (first : Bool) : Header :=
  { sized 16 16 with
    animated := true, alphaField := true, isFirst := first, headerSize := 24, dataStart := 24, dataEnd := 40 }

/-- The header of a 4x4 W2 frame at the dispatch. -/
def headerW2 (depth : Half) (dataEnd : Nat) : Header :=
  { sized 4 4 with encoderMode := 1, depth := depth, headerSize := 12, dataStart := 12, dataEnd := dataEnd }

/-- A packet of 40 bytes with the A9LL offsets 33 and 34 at 24 (30_encoding.md R72). -/
def packetA9 : List Byte := List.replicate 24 0 ++ [33, 0, 0, 0, 34, 0, 0, 0] ++ List.replicate 8 0

/-- O5: the intra unit; `BIT1` is `[32, 33)`, `BIT2` `[33, 34)`, the byte cursor the rest (R72). -/
theorem test_step_dispatchIntra :
    gives (step (atStage .dispatch (animatedHeader true) packetA9))
      (fun t => t.seq == { unit := .a9llIntra, t := 0, s := 0, p := 0, stage := .table } &&
        t.bit1 == { mem := .packet, start := 32, stop := 33, bitpos := 0 } && t.bit2.stop == 34 &&
        t.a9.p0 == { mem := .packet, start := 34, stop := 40, pos := 34 }) := by decide +kernel

/-- O6, S14: with a matching reference the inter unit; without one `INVALID_DATA`. -/
theorem test_step_dispatchInter :
    gives (step { atStage .dispatch (animatedHeader false) packetA9 with
        ref := { valid := true, w := 16, h := 16, pix := [] } }) (fun t => t.seq.unit == .a9llInter && t.seq.stage == .table) ∧
    ends (step (atStage .dispatch (animatedHeader false) packetA9)) State.reset .invalidData := by decide +kernel

/-- RD19, RD20: the regions of program P1's frame. -/
theorem test_step_dispatchW2D1 :
    gives (step (atStage .dispatch (headerW2 1 33) packetP1))
      (fun t => t.tab == { mem := .packet, start := 28, stop := 28, pos := 28 } && t.idx.stop == 29 &&
        t.lit == { mem := .packet, start := 29, stop := 33, pos := 29 } && t.n == 16 && t.seq.stage == .w2Index) ∧
    ends (step (atStage .dispatch (headerW2 1 32) packetP1)) State.reset .invalidData := by decide +kernel

/-- O2 under TC0, and Q3 under the sample P14: `S = 20` starts with the first strip. -/
theorem test_step_dispatchW2D2 :
    refuses (step (atStage .dispatch { sized 4 4 with encoderMode := 1, depth := 2 } packetP1)) .noD2Coding ∧
    gives (step { atStage .dispatch (headerW2 2 36) (List.replicate 12 0 ++ [20] ++ List.replicate 23 0) with
        cfg := { Config.tc0 with d2 := some D2Coding.sample } })
      (fun t => t.size == 20 && t.ipos == 0 && t.seq.stage == .d2Strip1) := by decide +kernel

/-- O7, O3, O4. -/
theorem test_step_dispatch_rejects :
    ends (step (atStage .dispatch { sized 4 4 with extraException := true } packetP1)) State.reset .unsupported ∧
    ends (step (atStage .dispatch { sized 4 4 with
        encoderMode := 2, depth := 1 } packetP1)) State.reset .unsupported ∧
    ends (step (atStage .dispatch { sized 4 4 with
        encoderMode := 1, depth := 3 } packetP1)) State.reset .unsupported := by
  decide +kernel

/-- R241 and Z5. -/
theorem test_step_decode :
    gives (step { State.reset with queue := [.decode header12 8 32] })
      (fun t => t.status == { phase := .busy, code := .ok } && t.len == 12 && Store.get t.pkt 0 == 0x51 &&
        t.seq.stage == .hdr .len && t.queue == []) ∧
    refuses (exec (.decode header12 8 32) (atStage (.hdr .len) Header.zero [])) .busy := by decide +kernel

/-- R285, R286. -/
theorem test_step_reset :
    gives (step { body 4 4 .complete .idle [] with
        status := { phase := .done, code := .invalidData }, queue := [.reset] })
      (fun t => t.status == { phase := .idle, code := .ok } && !t.ref.valid) ∧
    refuses (exec .reset (atStage .table Header.zero [])) .busy := by decide +kernel

/-- O8, O9, R243, H22: the checks between the header and the dispatch. -/
theorem test_step_orchestrate :
    ends (step (atStage .orchestrate (sized 4097 4096) [])) State.reset .allocFail ∧
    gives (step (atStage .orchestrate (sized 4096 4096) [])) (fun t => t.seq.stage == .dispatch) ∧
    refuses (step { atStage .orchestrate (sized 4 4) [] with stride := 7 }) .strideTooSmall ∧
    refuses (step (atStage .orchestrate { sized 4 4 with indexColor := true } [])) .indexColor := by decide +kernel

/-- R53, R254: the host's buffer of a 2x1 frame, little-endian under TC0; the frame becomes the reference. -/
theorem test_step_complete :
    gives (step { atStage .complete (sized 2 1) [] with frame := [(pixKey 0 0, 0xBBAA), (pixKey 1 0, 0x00CC)] })
      (fun t => t.outBuf == [(0, 0xAA), (1, 0xBB), (2, 0xCC), (3, 0x00)] && t.ref.valid &&
        t.ref.pix == [(pixKey 0 0, 0xBBAA), (pixKey 1 0, 0x00CC)] && t.status == { phase := .done, code := .ok } &&
        t.out.keyFrame) := by decide +kernel

/-- R39 and 10_state.md R31: the model's two guards. -/
theorem test_step_guards :
    faults (step { atStage .complete (sized 2 1) [] with written := [] }) (.unwritten .dims) ∧
    faults (exec .pixCopy (atStage .complete (sized 2 1) [])) .outOfSequence := by decide +kernel

/-! ## States that meet the obligations' hypotheses -/

theorem test_witness_DecodeOfEncode :
    (∃ (f : Format) (i : Instr), f.admits i = true) ∧
    (∃ (f : Format) (i : Instr), f.admits i = true) ∧
    (∃ (f : Format) (i : Instr), f.admits i = true) :=
  ⟨⟨.mb16, (.mbMv 0xFF 0x7F), by decide +kernel⟩,
    ⟨(.w2Sym 510), (.w2Run 510 0), by decide +kernel⟩,
    ⟨(.d2Value (kindCode D2Coding.sample .first 5)), (.d2Value [true, true] (.xor 0xFF)), by decide +kernel⟩⟩

theorem test_witness_DecodedStreams :
    (∃ (f : Format) (st : Streams) (i : Instr), decode f st = .ok i) :=
  ⟨.sub3, { bit1 := [true, true, false, true], maskc := [0xFF, 0x00, 0x01] }, (.s3ResMv 0x00FF), by decide +kernel⟩

theorem test_witness_StepRunsDecoded :
    (∃ (s : State) (f : Format) (st : Streams) (i : Instr), s.seq.stage ≠ .orchestrate ∧ s.seq.stage ≠ .complete ∧
        (s.seq.stage = .idle → s.queue ≠ []) ∧ s.format = .ok f ∧ s.streams f = .ok st ∧ decode f st = .ok i) ∧
    (∃ (s : State) (f : Format) (st : Streams) (i : Instr), s.seq.stage ≠ .orchestrate ∧ s.seq.stage ≠ .complete ∧
        (s.seq.stage = .idle → s.queue ≠ []) ∧ s.format = .ok f ∧ s.streams f = .ok st ∧ decode f st = .ok i) :=
  ⟨⟨body 8 4 .a9llIntra .tile [0xC0, 0, 0, 0, 0, 0], .tile2, { bit1 := [true, true] }, .tile2Edge, by decide +kernel⟩,
    ⟨{ State.reset with queue := [.reset] }, .command, { cmd := some .reset }, .reset, by decide +kernel⟩⟩

theorem test_witness_StepOfRejected :
    (∃ (s : State) (f : Format) (st : Streams) (r : Reject), s.seq.stage ≠ .orchestrate ∧ s.seq.stage ≠ .complete ∧
        s.seq.stage ≠ .idle ∧ s.format = .ok f ∧ s.streams f = .ok st ∧ decode f st = .error r) :=
  ⟨body 8 4 .a9llIntra .tile [0x40, 0, 0, 0, 0, 0, 0x01], .tile2, { bit1 := [false, true], maskc := [0x01] },
      .overrun, by decide +kernel⟩

theorem test_witness_IdleStep :
    (∃ s : State, s.seq.stage = .idle ∧ s.queue = []) :=
  ⟨State.reset, by decide +kernel⟩

theorem test_witness_SymbolOverrun :
    (∃ s : State, s.seq.stage = .tile ∧ s.bitsShort .bit1 2 = true ∧ s.bytesReady .maskc 0 = true) ∧
    (∃ s : State, s.seq.stage = .sub .sub3 ∧ s.bitsShort .bit1 3 = true ∧ s.bytesReady .maskc 0 = true) ∧
    (∃ s : State, s.sub2Next = true ∧ s.bitsShort .bit1 2 = true ∧ s.bytesReady .maskc 0 = true) ∧
    (∃ s : State, s.sub2Next = true ∧ s.seq.stage = .sub .cells ∧ s.bitsShort .bit1 2 = true ∧
        s.bytesReady .maskc 0 = true) ∧
    (∃ s : State, s.seq.stage = .mb ∧ s.has [.dims] = true ∧ s.bitsShort .bit1 1 = true) ∧
    (∃ s : State, s.seq.stage = .mvCopy ∧ s.bitsShort .bit1 1 = true) ∧
    (∃ s : State, s.seq.stage = .w2Index ∧ s.bytesReady .idx 1 = true ∧ s.bytesAllFF .idx = true) ∧
    (∃ s : State, s.seq.stage = .w2Sym 0 ∧ s.bytesShort .lit 4 = true) ∧
    (∃ (s : State) (idx : Nat), 1 ≤ idx ∧ s.seq.stage = .w2Sym idx ∧ s.bytesAllFF .run = true) :=
  ⟨⟨{ body 16 16 .a9llInter .tile [0, 0, 0, 0, 0, 0] with
      bit1 := { mem := .packet, start := 0, stop := 1, bitpos := 7 } }, by decide +kernel⟩,
    ⟨{ body 16 16 .a9llInter (.sub .sub3) [0, 0, 0, 0, 0, 0] with
        bit1 := { mem := .packet, start := 0, stop := 1, bitpos := 6 } }, by decide +kernel⟩,
    ⟨{ body 16 16 .a9llInter (.sub .sub2) [0, 0, 0, 0, 0, 0] with
        bit1 := { mem := .packet, start := 0, stop := 1, bitpos := 7 } }, by decide +kernel⟩,
    ⟨{ body 6 4 .a9llInter (.sub .cells) [0, 0, 0, 0, 0, 0] with
        bit1 := { mem := .packet, start := 0, stop := 1, bitpos := 7 } }, by decide +kernel⟩,
    ⟨{ body 16 16 .a9llInter .mb [0, 0, 0, 0, 0, 0] with
        bit1 := { mem := .packet, start := 0, stop := 1, bitpos := 8 } }, by decide +kernel⟩,
    ⟨{ body 16 16 .a9llInter .mvCopy [0, 0, 0, 0, 0, 0] with
        bit1 := { mem := .packet, start := 0, stop := 1, bitpos := 8 } }, by decide +kernel⟩,
    ⟨body 4 4 .w2d1 .w2Index [0, 0, 0, 0, 0, 0, 0xFF, 0xFF], by decide +kernel⟩,
    ⟨body 4 4 .w2d1 (.w2Sym 0) [0, 0, 0, 0, 0, 0, 1, 2, 3], by decide +kernel⟩,
    ⟨runState [0xFF], 1, by decide +kernel⟩⟩

/-- A mask of which one byte is left. -/
theorem test_witness_SymbolOverrun_masks :
    (∃ (s : State) (m : Nat) (c : BitCursor), s.bytesShort .maskc 2 = true ∧ s.seq.stage = .tile ∧
        s.bitsReady .bit1 2 = true ∧ s.bit1.read (s.mem s.bit1.mem) 2 = .ok (m, c) ∧ m ≠ 3) ∧
    (∃ (s : State) (m : Nat) (c : BitCursor), s.bytesShort .maskc 2 = true ∧ s.seq.stage = .sub .sub3 ∧
        s.bitsReady .bit1 3 = true ∧ s.bit1.read (s.mem s.bit1.mem) 3 = .ok (m, c) ∧ m ≠ 3 ∧ m ≠ 5 ∧ m ≠ 7) ∧
    (∃ (s : State) (m : Nat) (c : BitCursor), s.bytesShort .maskc 2 = true ∧ s.sub2Next = true ∧
        s.bitsReady .bit1 2 = true ∧ s.bit1.read (s.mem s.bit1.mem) 2 = .ok (m, c) ∧ m ≠ 3) ∧
    (∃ (s : State) (m : Nat) (c : BitCursor), s.bytesShort .maskc 2 = true ∧ s.sub2Next = true ∧
        s.seq.stage = .sub .cells ∧ s.bitsReady .bit1 2 = true ∧
        s.bit1.read (s.mem s.bit1.mem) 2 = .ok (m, c) ∧ m ≠ 3) :=
  ⟨⟨body 8 4 .a9llIntra .tile [0x80, 0, 0, 0, 0, 0, 1], 2, { mem := .packet, start := 0, stop := 4, bitpos := 2 },
      by decide +kernel⟩,
    ⟨body 16 16 .a9llInter (.sub .sub3) [0xC0, 0, 0, 0, 0, 0, 1], 6,
      { mem := .packet, start := 0, stop := 4, bitpos := 3 }, by decide +kernel⟩,
    ⟨body 16 16 .a9llInter (.sub .sub2) [0x00, 0, 0, 0, 0, 0, 1], 0,
      { mem := .packet, start := 0, stop := 4, bitpos := 2 }, by decide +kernel⟩,
    ⟨body 6 4 .a9llInter (.sub .cells) [0x80, 0, 0, 0, 0, 0, 1], 2,
      { mem := .packet, start := 0, stop := 4, bitpos := 2 }, by decide +kernel⟩⟩

/-- A class of which two bits are left, a literal of which one byte is, an index of seven bits of which six are. -/
theorem test_witness_SymbolOverrun_pixels :
    (∃ (s : State) (pr : Predictor) (k : TileKind), s.pixelStands pr k false = true ∧
        s.bitsShort .bit2 3 = true ∧ s.bitsReady .bit1 0 = true) ∧
    (∃ (s : State) (pr : Predictor) (k : TileKind) (m : Nat) (c : BitCursor), s.pixelStands pr k false = true ∧
        s.bitsReady .bit2 3 = true ∧ s.bit2.read (s.mem s.bit2.mem) 3 = .ok (m, c) ∧ m = 7 ∧
        s.bytesShort .litc 2 = true) ∧
    (∃ (s : State) (pr : Predictor) (k : TileKind) (m : Nat) (c : BitCursor), s.pixelStands pr k false = true ∧
        s.bitsReady .bit2 3 = true ∧ s.bit2.read (s.mem s.bit2.mem) 3 = .ok (m, c) ∧ m ≠ 7 ∧
        s.bitsShort .bit1 (m + 1) = true) :=
  ⟨⟨{ body 8 4 .a9llIntra (.pixel (.dir .up) .frame) [0, 0, 0, 0, 0, 0] with
      bit2 := { mem := .packet, start := 4, stop := 6, bitpos := 14 } }, .dir .up, .frame, by decide +kernel⟩,
    ⟨body 8 4 .a9llIntra (.pixel (.dir .up) .frame) [0, 0, 0, 0, 0xE0, 0, 1], .dir .up, .frame, 7,
      { mem := .packet, start := 4, stop := 6, bitpos := 3 }, by decide +kernel⟩,
    ⟨{ body 8 4 .a9llIntra (.pixel (.dir .up) .frame) [0, 0, 0, 0, 0xC0, 0] with
        bit1 := { mem := .packet, start := 0, stop := 4, bitpos := 26 } }, .dir .up, .frame, 6,
      { mem := .packet, start := 4, stop := 6, bitpos := 3 }, by decide +kernel⟩⟩

/-- `BIT1` is at bit `b` of its 32. -/
def bitAt (s : State) (b : Nat) : State := { s with bit1 := { s.bit1 with bitpos := b } }

/-- `D2B` is at bit `b` of its 32. -/
def d2bAt (s : State) (b : Nat) : State := { s with d2b := { s.d2b with bitpos := b } }

/-- A macroblock code cut after `1` and after `10`, and a vector of which 17 bits are left. -/
theorem test_witness_SymbolOverrun_codes :
    (∃ s : State, s.seq.stage = .mb ∧ s.has [.dims] = true ∧ s.mbFull = true ∧ s.codeUnder .bit1 [true] = true ∧
        s.bitsShort .bit1 2 = true) ∧
    (∃ s : State, s.seq.stage = .mb ∧ s.has [.dims] = true ∧ s.mbFull = true ∧
        s.codeUnder .bit1 [true, false] = true ∧ s.bitsShort .bit1 3 = true) ∧
    (∃ s : State, s.seq.stage = .mb ∧ s.has [.dims] = true ∧ s.mbFull = true ∧
        s.codeUnder .bit1 [true, false, false] = true ∧ s.bitsShort .bit1 18 = true) :=
  ⟨⟨bitAt (body 16 16 .a9llInter .mb [0, 0, 0, 0x01, 0, 0]) 31, by decide +kernel⟩,
    ⟨bitAt (body 16 16 .a9llInter .mb [0, 0, 0, 0x02, 0, 0]) 30, by decide +kernel⟩,
    ⟨bitAt (body 16 16 .a9llInter .mb [0, 0x01, 0, 0, 0, 0]) 15, by decide +kernel⟩⟩

/-- R171, R131: those three macroblock codes end the DECODE. -/
theorem test_step_mb_cut :
    ends (step (bitAt (body 16 16 .a9llInter .mb [0, 0, 0, 0x01, 0, 0]) 31)) (body 16 16 .a9llInter .mb [])
      .invalidData ∧
    ends (step (bitAt (body 16 16 .a9llInter .mb [0, 0, 0, 0x02, 0, 0]) 30)) (body 16 16 .a9llInter .mb [])
      .invalidData ∧
    ends (step (bitAt (body 16 16 .a9llInter .mb [0, 0x01, 0, 0, 0, 0]) 15)) (body 16 16 .a9llInter .mb [])
      .invalidData := by decide +kernel

/-- The literals of a cell of which 15 bytes are left, a table of which 1535 are. -/
theorem test_witness_SymbolOverrun_long :
    (∃ s : State, s.seq.stage = .sub .cells ∧ s.has [.dims] = true ∧ s.subAt.1 < s.fw ∧ s.subAt.2 < s.fh ∧
        s.tileFits (.within .cells) = false ∧
        s.bytesShort .edgelit (2 * (min 4 (s.fw - s.subAt.1) * min 4 (s.fh - s.subAt.2))) = true) ∧
    (∃ s : State, s.seq.stage = .table ∧ s.has [.flagsAB] = true ∧ s.hdr.dynamicTable = true ∧
        s.bytesShort .tabc 1536 = true) :=
  ⟨⟨at_ (body 6 4 .a9llInter (.sub .cells) (List.replicate 21 0)) 0 1 0, by decide +kernel⟩,
    ⟨{ body 8 4 .a9llIntra .table (List.replicate 1541 0) with hdr := { sized 8 4 with dynamicTable := true } },
      by decide +kernel⟩⟩

/-- A depth-2 frame like `strips`, under another P14. -/
def stripsBy (d : D2Coding) (stage : Stage) (ipos dist : Nat) (packet : List Byte) : State :=
  { strips stage ipos dist packet with cfg := { Config.tc0 with d2 := some d } }

/-- The sample P14 with a two-byte distance, and with its mask in `D2B`. -/
def halfDist : D2Coding := { D2Coding.sample with distIfSet := .half }
def bitMask : D2Coding := { D2Coding.sample with maskInBits := true }

/-- The depth-2 reads, each one bit or byte short. -/
theorem test_witness_SymbolOverrun_depth2 :
    (∃ (s : State) (d : D2Coding), s.cfg.d2 = some d ∧ s.seq.stage = .d2Strip1 ∧ s.bytesShort .d2l 4 = true) ∧
    (∃ (s : State) (d : D2Coding) (strip : Strip) (j : Nat), s.cfg.d2 = some d ∧ s.seq.stage = .d2Dist strip j ∧
        s.bitsShort .d2b 1 = true) ∧
    (∃ (s : State) (d : D2Coding) (strip : Strip) (j : Nat) (flag : Bool), s.cfg.d2 = some d ∧
        s.seq.stage = .d2Dist strip j ∧ s.codeUnder .d2b [flag] = true ∧
        (if flag then d.distIfSet else d.distIfClear) = .byte ∧ s.bytesShort .d2dist 1 = true) ∧
    (∃ (s : State) (d : D2Coding) (strip : Strip) (j : Nat) (flag : Bool), s.cfg.d2 = some d ∧
        s.seq.stage = .d2Dist strip j ∧ s.codeUnder .d2b [flag] = true ∧
        (if flag then d.distIfSet else d.distIfClear) = .half ∧ s.bytesShort .d2dist 2 = true) ∧
    (∃ (s : State) (d : D2Coding), s.cfg.d2 = some d ∧ s.seq.stage = .d2Body .verb ∧ s.bytesShort .d2l 16 = true) ∧
    (∃ (s : State) (d : D2Coding), s.cfg.d2 = some d ∧ s.seq.stage = .d2Body .strip2 ∧ d.maskInBits = true ∧
        s.bitsShort .d2b 8 = true) ∧
    (∃ (s : State) (d : D2Coding), s.cfg.d2 = some d ∧ s.seq.stage = .d2Body .strip2 ∧ d.maskInBits = false ∧
        s.bytesShort .d2mask 1 = true) ∧
    (∃ (s : State) (d : D2Coding), s.cfg.d2 = some d ∧ s.seq.stage = .d2Tail ∧ s.has [.size, .ipos] = true ∧
        s.bytesShort .d2l (s.size - s.ipos) = true) :=
  ⟨⟨strips .d2Strip1 0 1 (List.replicate 9 0), D2Coding.sample, by decide +kernel⟩,
    ⟨d2bAt (strips (.d2Dist .first 0) 4 1 (List.replicate 6 0)) 32, D2Coding.sample, .first, 0, by decide +kernel⟩,
    ⟨strips (.d2Dist .first 0) 4 1 [0x80, 0, 0, 0, 0, 0], D2Coding.sample, .first, 0, true, by decide +kernel⟩,
    ⟨stripsBy halfDist (.d2Dist .first 0) 4 1 [0x80, 0, 0, 0, 0, 0, 7], halfDist, .first, 0, true, by decide +kernel⟩,
    ⟨strips (.d2Body .verb) 16 1 (List.replicate 21 0), D2Coding.sample, by decide +kernel⟩,
    ⟨d2bAt (stripsBy bitMask (.d2Body .strip2) 16 1 (List.replicate 6 0)) 25, bitMask, by decide +kernel⟩,
    ⟨strips (.d2Body .strip2) 16 1 (List.replicate 6 0), D2Coding.sample, by decide +kernel⟩,
    ⟨{ strips .d2Tail 16 1 (List.replicate 9 0) with size := 20 }, D2Coding.sample, by decide +kernel⟩⟩

/-- A kind code and a selector code cut after their first bit, and a key and a literal that are missing. -/
theorem test_witness_SymbolOverrun_depth2_codes :
    (∃ (s : State) (d : D2Coding) (strip : Strip) (j : Nat) (code : List Bool) (kind : ValueKind),
        s.cfg.d2 = some d ∧ s.seq.stage = .d2Value strip j ∧ (kindCode d strip j).spells code kind = true ∧
        s.codeCut .d2b code = true) ∧
    (∃ (s : State) (d : D2Coding) (strip : Strip) (j : Nat) (code : List Bool), s.cfg.d2 = some d ∧
        s.seq.stage = .d2Value strip j ∧ (kindCode d strip j).spells code .xor = true ∧
        s.codeUnder .d2b code = true ∧ s.bytesShort .d2key 1 = true) ∧
    (∃ (s : State) (d : D2Coding) (strip : Strip) (j : Nat) (code : List Bool), s.cfg.d2 = some d ∧
        s.seq.stage = .d2Value strip j ∧ (kindCode d strip j).spells code .lit = true ∧
        s.codeUnder .d2b code = true ∧ s.bytesShort .d2l 2 = true) ∧
    (∃ (s : State) (d : D2Coding) (code : List Bool) (kind : Option StripKind), s.cfg.d2 = some d ∧
        s.seq.stage = .d2Sel ∧ d.selector.spells code kind = true ∧ s.codeCut .d2b code = true) :=
  ⟨⟨d2bAt (strips (.d2Value .first 1) 4 1 [0, 0, 0, 0x01, 0, 0]) 31, D2Coding.sample, .first, 1, [true, false],
      .backref, by decide +kernel⟩,
    ⟨strips (.d2Value (.later 0x80) 7) 4 1 [0x80, 0, 0, 0, 0, 0], D2Coding.sample, .later 0x80, 7, [true],
      by decide +kernel⟩,
    ⟨strips (.d2Value .first 1) 4 1 [0, 0, 0, 0, 0, 0, 1], D2Coding.sample, .first, 1, [false], by decide +kernel⟩,
    ⟨d2bAt (strips .d2Sel 16 1 [0, 0, 0, 0x03, 0, 0]) 30, D2Coding.sample, [true, true, true], none,
      by decide +kernel⟩⟩

/-- R223, R224, R226: a kind code, a distance byte and a selector code that are cut end the DECODE. -/
theorem test_step_d2_cut :
    ends (step (d2bAt (strips (.d2Value .first 1) 4 1 [0, 0, 0, 0x01, 0, 0]) 31)) (strips .d2Sel 4 1 [])
      .invalidData ∧
    ends (step (strips (.d2Dist .first 0) 4 1 [0x80, 0, 0, 0, 0, 0])) (strips .d2Sel 4 1 []) .invalidData ∧
    ends (step (d2bAt (strips .d2Sel 16 1 [0, 0, 0, 0x03, 0, 0]) 30)) (strips .d2Sel 16 1 []) .invalidData := by
  decide +kernel

theorem test_witness_DecodeCommand :
    (∃ s : State, s.status.phase = .busy) ∧
    (∃ (packet : List Byte) (s : State), s.status.phase ≠ .busy ∧ s.cfg.maxPacket < packet.length) ∧
    (∃ (packet : List Byte) (s : State), s.status.phase ≠ .busy ∧ packet.length ≤ s.cfg.maxPacket) :=
  ⟨⟨atStage .table Header.zero [], by decide +kernel⟩,
    ⟨header12, { State.reset with cfg := { Config.tc0 with maxPacket := 11 } }, by decide +kernel⟩,
    ⟨header12, { State.reset with cfg := { Config.tc0 with maxPacket := 12 } }, by decide +kernel⟩⟩

theorem test_witness_ResetCommand :
    (∃ s : State, s.status.phase = .busy) ∧
    (∃ s : State, s.status.phase ≠ .busy) :=
  ⟨⟨atStage .table Header.zero [], by decide +kernel⟩,
    ⟨State.reset, by decide +kernel⟩⟩

theorem test_witness_HdrLenMagic :
    (∃ s : State, s.seq.stage = .hdr .len ∧ 12 ≤ s.len) ∧
    (∃ s : State, s.seq.stage = .hdr .len ∧ s.len < 12) ∧
    (∃ s : State, s.seq.stage = .hdr .magic ∧ 2 ≤ s.len ∧ Store.get s.pkt 0 = 0x51 ∧ Store.get s.pkt 1 = 0x4D) ∧
    (∃ s : State, s.seq.stage = .hdr .magic ∧ 2 ≤ s.len ∧ (Store.get s.pkt 0 ≠ 0x51 ∨ Store.get s.pkt 1 ≠ 0x4D)) :=
  ⟨⟨atStage (.hdr .len) Header.zero header12, by decide +kernel⟩,
    ⟨atStage (.hdr .len) Header.zero (header12.take 11), by decide +kernel⟩,
    ⟨atStage (.hdr .magic) Header.zero [0x51, 0x4D], by decide +kernel⟩,
    ⟨atStage (.hdr .magic) Header.zero [0x51, 0x4C], by decide +kernel⟩⟩

theorem test_witness_HdrVersionRawType :
    (∃ s : State, s.seq.stage = .hdr .version) ∧
    (∃ (s : State) (b : Byte), s.seq.stage = .hdr .rawType ∧ (b = 0 ∨ b = s.cfg.rawType2)) ∧
    (∃ (s : State) (b : Byte), s.seq.stage = .hdr .rawType ∧ b ≠ 0 ∧ b ≠ s.cfg.rawType2) :=
  ⟨⟨atStage (.hdr .version) Header.zero header12, by decide +kernel⟩,
    ⟨atStage (.hdr .rawType) Header.zero header12, 2, by decide +kernel⟩,
    ⟨atStage (.hdr .rawType) Header.zero header12, 1, by decide +kernel⟩⟩

theorem test_witness_HdrFlagsTC0 :
    (∃ s : State, s.cfg.abLegacy = Config.tc0.abLegacy ∧ s.cfg.abModern = Config.tc0.abModern ∧
        s.cfg.cdLegacy = Config.tc0.cdLegacy ∧ s.cfg.cdModern = Config.tc0.cdModern ∧ s.has [.version] = true ∧
        s.seq.stage = .hdr .flagsAB) ∧
    (∃ s : State, s.cfg.abLegacy = Config.tc0.abLegacy ∧ s.cfg.abModern = Config.tc0.abModern ∧
        s.cfg.cdLegacy = Config.tc0.cdLegacy ∧ s.cfg.cdModern = Config.tc0.cdModern ∧ s.has [.version] = true ∧
        s.seq.stage = .hdr .flagsCD) :=
  ⟨⟨atStage (.hdr .flagsAB) Header.zero header12, by decide +kernel⟩,
    ⟨atStage (.hdr .flagsCD) Header.zero header12, by decide +kernel⟩⟩

theorem test_witness_HdrDims :
    (∃ (s : State) (w h : Half), s.seq.stage = .hdr .dims ∧ w ≠ 0 ∧ h ≠ 0) ∧
    (∃ (s : State) (w h : Half), s.seq.stage = .hdr .dims ∧ (w = 0 ∨ h = 0)) :=
  ⟨⟨atStage (.hdr .dims) Header.zero header12, 1, 0xFFFF, by decide +kernel⟩,
    ⟨atStage (.hdr .dims) Header.zero header12, 1, 0, by decide +kernel⟩⟩

theorem test_witness_HdrAlphaLegacy :
    (∃ s : State, s.seq.stage = .hdr .alphaPresent ∧ s.has [.flagsAB] = true) ∧
    (∃ s : State, s.seq.stage = .hdr .alpha ∧ s.has [.alphaField, .version, .flagsAB] = true ∧
        s.hdr.alphaField = true ∧ s.hdr.legacy = true ∧ 16 ≤ s.len) ∧
    (∃ s : State, s.seq.stage = .hdr .alpha ∧ s.has [.alphaField, .version, .flagsAB] = true ∧
        s.hdr.alphaField = true ∧ s.hdr.legacy = true ∧ s.len < 16) :=
  ⟨⟨atStage (.hdr .alphaPresent) Header.zero header12, by decide +kernel⟩,
    ⟨atStage (.hdr .alpha) { Header.zero with
        legacy := true, alphaField := true, transparency := true } (List.replicate 16 0), by decide +kernel⟩,
    ⟨atStage (.hdr .alpha) { Header.zero with
        legacy := true, alphaField := true, transparency := true } (List.replicate 15 0), by decide +kernel⟩⟩

theorem test_witness_HdrAlphaModern :
    (∃ s : State, s.seq.stage = .hdr .alpha ∧ s.has [.alphaField, .version, .flagsAB] = true ∧
        s.hdr.alphaField = true ∧ s.hdr.legacy = false ∧ 16 ≤ s.len) ∧
    (∃ s : State, s.seq.stage = .hdr .alpha ∧ s.has [.alphaField, .version, .flagsAB] = true ∧
        s.hdr.alphaField = true ∧ s.hdr.legacy = false ∧ s.len < 16) ∧
    (∃ s : State, s.seq.stage = .hdr .scale ∧ s.has [.alphaRaw, .flagsAB] = true ∧ s.hdr.alphaRaw.toNat < 65536 ∧
        (s.hdr.animated = true → s.has [.isFirst] = true)) :=
  ⟨⟨atStage (.hdr .alpha) { Header.zero with
      legacy := false, alphaField := true, transparency := true } (List.replicate 16 0), by decide +kernel⟩,
    ⟨atStage (.hdr .alpha) { Header.zero with
        legacy := false, alphaField := true, transparency := true } (List.replicate 15 0), by decide +kernel⟩,
    ⟨atStage (.hdr .scale) { Header.zero with alphaField := true, animated := true, alphaRaw := 65535 } header12,
        by decide +kernel⟩⟩

theorem test_witness_HdrAnim :
    (∃ s : State, s.seq.stage = .hdr .anim ∧ s.has [.flagsAB] = true ∧ s.hdr.animated = true ∧ 24 ≤ s.len) ∧
    (∃ s : State, s.seq.stage = .hdr .anim ∧ s.has [.flagsAB] = true ∧ s.hdr.animated = true ∧ s.len < 24) :=
  ⟨⟨atStage (.hdr .anim) { Header.zero with animated := true } (List.replicate 24 0), by decide +kernel⟩,
    ⟨atStage (.hdr .anim) { Header.zero with animated := true } (List.replicate 23 0), by decide +kernel⟩⟩

theorem test_witness_HdrIndex :
    (∃ s : State, s.seq.stage = .hdr .index ∧ s.has [.flagsCD, .headerSize, .alphaField] = true ∧
        s.hdr.indexColor = true ∧ s.hdr.ninePatch = false ∧ s.hdr.headerSize.toNat + 4 ≤ s.len) ∧
    (∃ s : State, s.seq.stage = .hdr .index ∧ s.has [.flagsCD, .headerSize, .alphaField] = true ∧
        s.hdr.indexColor = true ∧ s.hdr.ninePatch = true ∧ s.hdr.headerSize.toNat + 8 ≤ s.len) ∧
    (∃ s : State, s.seq.stage = .hdr .index ∧ s.has [.flagsCD, .headerSize, .alphaField] = true ∧
        s.hdr.indexColor = true ∧ s.hdr.ninePatch = false ∧ s.len < s.hdr.headerSize.toNat + 4) ∧
    (∃ s : State, s.seq.stage = .hdr .index ∧ s.has [.flagsCD, .headerSize, .alphaField] = true ∧
        s.hdr.indexColor = true ∧ s.hdr.ninePatch = true ∧ s.len < s.hdr.headerSize.toNat + 8) :=
  ⟨⟨atStage (.hdr .index) { Header.zero with
      indexColor := true, ninePatch := false, headerSize := 12 } (List.replicate 16 0), by decide +kernel⟩,
    ⟨atStage (.hdr .index) { Header.zero with
        indexColor := true, ninePatch := true, headerSize := 12 } (List.replicate 20 0), by decide +kernel⟩,
    ⟨atStage (.hdr .index) { Header.zero with
        indexColor := true, ninePatch := false, headerSize := 12 } (List.replicate 15 0), by decide +kernel⟩,
    ⟨atStage (.hdr .index) { Header.zero with
        indexColor := true, ninePatch := true, headerSize := 12 } (List.replicate 19 0), by decide +kernel⟩⟩

theorem test_witness_HdrSizeXvalDataEnd :
    (∃ s : State, s.seq.stage = .hdr .size ∧ s.has [.alphaField, .flagsAB, .flagsCD] = true) ∧
    (∃ s : State, s.seq.stage = .hdr .xval ∧ s.has [.alphaField, .headerSize, .alphaBytes] = true ∧
        s.hdr.alphaField = true ∧ s.hdr.headerSize.toNat + s.hdr.alphaBytes.toNat ≤ s.len) ∧
    (∃ s : State, s.seq.stage = .hdr .xval ∧ s.has [.alphaField, .headerSize, .alphaBytes] = true ∧
        s.hdr.alphaField = true ∧ s.len < s.hdr.headerSize.toNat + s.hdr.alphaBytes.toNat) ∧
    (∃ s : State, s.seq.stage = .hdr .dataEnd ∧ s.has [.alphaField, .headerSize] = true ∧
        (s.hdr.alphaField = true → s.has [.alphaBytes] = true)) :=
  ⟨⟨atStage (.hdr .size) Header.zero [], by decide +kernel⟩,
    ⟨atStage (.hdr .xval) { Header.zero with
        alphaField := true, headerSize := 16, alphaBytes := 4 } (List.replicate 20 0), by decide +kernel⟩,
    ⟨atStage (.hdr .xval) { Header.zero with
        alphaField := true, headerSize := 16, alphaBytes := 5 } (List.replicate 20 0), by decide +kernel⟩,
    ⟨atStage (.hdr .dataEnd) { Header.zero with
        alphaField := true, headerSize := 16, alphaBytes := 4 } (List.replicate 20 0), by decide +kernel⟩⟩

theorem test_witness_HdrQpFirstTC0 :
    (∃ s : State, s.cfg.qpGate = Config.tc0.qpGate ∧ s.cfg.firstFrame = Config.tc0.firstFrame ∧
        s.seq.stage = .hdr .qpGate ∧ s.has [.flagsAB, .flagsCD] = true) ∧
    (∃ s : State, s.cfg.qpGate = Config.tc0.qpGate ∧ s.cfg.firstFrame = Config.tc0.firstFrame ∧
        s.seq.stage = .hdr .first ∧ s.has [.flagsAB, .alphaField, .version, .anim] = true ∧ s.hdr.animated = true) ∧
    (∃ s : State, s.cfg.qpGate = Config.tc0.qpGate ∧ s.cfg.firstFrame = Config.tc0.firstFrame ∧
        s.seq.stage = .hdr .first ∧ s.has [.flagsAB, .alphaField, .version] = true ∧ s.hdr.animated = false) :=
  ⟨⟨atStage (.hdr .qpGate) Header.zero [], by decide +kernel⟩,
    ⟨atStage (.hdr .first) { Header.zero with animated := true } [], by decide +kernel⟩,
    ⟨atStage (.hdr .first) Header.zero [], by decide +kernel⟩⟩

theorem test_witness_OrchestrateStep :
    (∃ s : State, s.seq.stage = .orchestrate ∧ s.has [.dims, .flagsCD] = true ∧ s.cfg.maxPixels < s.fw * s.fh) ∧
    (∃ s : State, s.seq.stage = .orchestrate ∧ s.has [.dims, .flagsCD] = true ∧ s.fw * s.fh ≤ s.cfg.maxPixels ∧
        s.stride < 2 * s.fw) ∧
    (∃ s : State, s.seq.stage = .orchestrate ∧ s.has [.dims, .flagsCD] = true ∧ s.fw * s.fh ≤ s.cfg.maxPixels ∧
        2 * s.fw ≤ s.stride ∧ s.cap < (s.fh - 1) * s.stride + 2 * s.fw) ∧
    (∃ s : State, s.seq.stage = .orchestrate ∧ s.has [.dims, .flagsCD] = true ∧ s.fw * s.fh ≤ s.cfg.maxPixels ∧
        2 * s.fw ≤ s.stride ∧ (s.fh - 1) * s.stride + 2 * s.fw ≤ s.cap ∧ s.hdr.indexColor = true ∧
        s.cfg.indexColor = .refuse) ∧
    (∃ s : State, s.seq.stage = .orchestrate ∧ s.has [.dims, .flagsCD] = true ∧ s.fw * s.fh ≤ s.cfg.maxPixels ∧
        2 * s.fw ≤ s.stride ∧ (s.fh - 1) * s.stride + 2 * s.fw ≤ s.cap ∧
        (s.hdr.indexColor = false ∨ s.cfg.indexColor ≠ .refuse)) :=
  ⟨⟨atStage .orchestrate (sized 4097 4096) [], by decide +kernel⟩,
    ⟨{ atStage .orchestrate (sized 4 4) [] with stride := 7 }, by decide +kernel⟩,
    ⟨{ atStage .orchestrate (sized 4 4) [] with cap := 31 }, by decide +kernel⟩,
    ⟨atStage .orchestrate { sized 4096 4096 with indexColor := true } [], by decide +kernel⟩,
    ⟨atStage .orchestrate (sized 4096 4096) [], by decide +kernel⟩⟩

/-- A frame that is not animated, at the dispatch: its DECODE has written neither the animation fields nor `is_first`
(R117, log 11). -/
def still (h : Header) (packet : List Byte) : State :=
  { atStage .dispatch h packet with
    written := [.version, .rawType, .flagsAB, .dims, .flagsCD, .alphaField, .headerSize, .dataEnd, .qpGate] }

theorem test_witness_DispatchRejects :
    (∃ s : State, s.seq.stage = .dispatch ∧ s.has [.flagsAB] = true ∧ (s.hdr.animated = true → s.has [.isFirst] = true) ∧
        s.hdr.extraException = true ∧ s.hdr.animated = true) ∧
    (∃ s : State, s.seq.stage = .dispatch ∧ s.has [.flagsAB] = true ∧ (s.hdr.animated = true → s.has [.isFirst] = true) ∧
        s.hdr.extraException = true ∧ s.hdr.animated = false ∧ Reg.isFirst ∉ s.written) ∧
    (∃ s : State, s.seq.stage = .dispatch ∧ s.has [.flagsAB] = true ∧ (s.hdr.animated = true → s.has [.isFirst] = true) ∧
        s.hdr.extraException = false ∧ s.hdr.animated = false ∧ s.hdr.encoderMode ≠ s.cfg.w2Mode ∧
        Reg.isFirst ∉ s.written) ∧
    (∃ s : State, s.seq.stage = .dispatch ∧ s.has [.flagsAB] = true ∧ (s.hdr.animated = true → s.has [.isFirst] = true) ∧
        s.hdr.extraException = false ∧ s.hdr.animated = false ∧ s.hdr.encoderMode = s.cfg.w2Mode ∧ s.hdr.depth ≠ 1 ∧
        s.hdr.depth ≠ 2 ∧ Reg.isFirst ∉ s.written) :=
  ⟨⟨atStage .dispatch { animatedHeader true with extraException := true } [], by decide +kernel⟩,
    ⟨still { sized 4 4 with extraException := true } [], by decide +kernel⟩,
    ⟨still (sized 4 4) [], by decide +kernel⟩,
    ⟨still (headerW2 3 12) [], by decide +kernel⟩⟩

theorem test_witness_DispatchIntraStarts :
    (∃ s : State, s.seq.stage = .dispatch ∧ s.has [.flagsAB, .isFirst, .dims, .headerSize, .dataEnd] = true ∧
        s.hdr.extraException = false ∧ s.hdr.animated = true ∧ s.hdr.isFirst = true ∧ (s.fw % 4 = 0 ∧ s.fh % 4 = 0 ∨ s.cfg.intraPartial ≠ .refuse) ∧
        s.hdr.dataStart + 8 ≤ s.len ∧ a9Ok s.a9Regions s.hdr.headerSize.toNat s.hdr.dataEnd s.len = true) ∧
    (∃ s : State, s.seq.stage = .dispatch ∧ s.has [.flagsAB, .isFirst, .dims, .headerSize, .dataEnd] = true ∧
        s.hdr.extraException = false ∧ s.hdr.animated = true ∧ s.hdr.isFirst = true ∧
        (s.fw % 4 = 0 ∧ s.fh % 4 = 0 ∨ s.cfg.intraPartial ≠ .refuse) ∧
        a9Ok s.a9Regions s.hdr.headerSize.toNat s.hdr.dataEnd s.len = false) ∧
    (∃ s : State, s.seq.stage = .dispatch ∧ s.has [.flagsAB, .isFirst, .dims, .headerSize, .dataEnd] = true ∧
        s.hdr.extraException = false ∧ s.hdr.animated = true ∧ s.hdr.isFirst = true ∧
        (s.fw % 4 ≠ 0 ∨ s.fh % 4 ≠ 0) ∧ s.cfg.intraPartial = .refuse) ∧
    (∃ s : State, s.seq.stage = .dispatch ∧ s.has [.flagsAB, .isFirst, .dims, .headerSize, .dataEnd] = true ∧
        s.hdr.extraException = false ∧ s.hdr.animated = true ∧ s.hdr.isFirst = true ∧ s.fw % 4 ≠ 0 ∧
        s.cfg.intraPartial ≠ .refuse ∧ s.hdr.dataStart + 8 ≤ s.len ∧
        a9Ok s.a9Regions s.hdr.headerSize.toNat s.hdr.dataEnd s.len = true) ∧
    (∃ (s : State) (id : Nat), s.seq.stage = .partialFrame ∧ s.has [.dims, .rsA9LL, .dt, .dataEnd] = true ∧
        s.cfg.intraPartial = .impl id) :=
  ⟨⟨atStage .dispatch (animatedHeader true) packetA9, by decide +kernel⟩,
    ⟨atStage .dispatch (animatedHeader true) (packetA9.set 24 35), by decide +kernel⟩,
    ⟨atStage .dispatch { animatedHeader true with w := 17 } packetA9, by decide +kernel⟩,
    ⟨{ atStage .dispatch { animatedHeader true with w := 17 } packetA9 with
        cfg := { Config.tc0 with intraPartial := .impl 1 } }, by decide +kernel⟩,
    ⟨{ atStage .partialFrame { animatedHeader true with w := 17 } packetA9 with
        cfg := { Config.tc0 with intraPartial := .impl 1 } }, 1, by decide +kernel⟩⟩

theorem test_witness_DispatchInterStarts :
    (∃ s : State, s.seq.stage = .dispatch ∧ s.has [.flagsAB, .isFirst, .dims, .headerSize, .dataEnd] = true ∧
        s.hdr.extraException = false ∧ s.hdr.animated = true ∧ s.hdr.isFirst = false ∧ s.refUsable = false) ∧
    (∃ s : State, s.seq.stage = .dispatch ∧
        s.has [.flagsAB, .isFirst, .dims, .headerSize, .dataEnd] = true ∧ s.hdr.extraException = false ∧
        s.hdr.animated = true ∧ s.hdr.isFirst = false ∧ s.refUsable = true ∧ s.hdr.dataStart + 8 ≤ s.len ∧
        a9Ok s.a9Regions s.hdr.headerSize.toNat s.hdr.dataEnd s.len = true) ∧
    (∃ s : State, s.seq.stage = .dispatch ∧
        s.has [.flagsAB, .isFirst, .dims, .headerSize, .dataEnd] = true ∧ s.hdr.extraException = false ∧
        s.hdr.animated = true ∧ s.hdr.isFirst = false ∧ s.refUsable = true ∧
        a9Ok s.a9Regions s.hdr.headerSize.toNat s.hdr.dataEnd s.len = false) :=
  ⟨⟨atStage .dispatch (animatedHeader false) packetA9, by decide +kernel⟩,
    ⟨{ atStage .dispatch (animatedHeader false) packetA9 with
        ref := { valid := true, w := 16, h := 16, pix := [] } }, by decide +kernel⟩,
    ⟨{ atStage .dispatch (animatedHeader false) (packetA9.set 24 35) with
        ref := { valid := true, w := 16, h := 16, pix := [] } }, by decide +kernel⟩⟩

theorem test_witness_DispatchW2D1Starts :
    (∃ (s : State) (b e n il ll : Nat), s.seq.stage = .dispatch ∧
        s.has [.flagsAB, .dims, .headerSize, .dataEnd] = true ∧ Reg.isFirst ∉ s.written ∧ s.hdr.extraException = false ∧
        s.hdr.animated = false ∧ s.hdr.encoderMode = s.cfg.w2Mode ∧ s.hdr.depth = 1 ∧ s.hdr.w ≠ 0 ∧ s.hdr.h ≠ 0 ∧
        s.hdr.dataEnd ≤ s.len ∧ s.cfg.w2Layout = Config.tc0.w2Layout ∧ b = s.hdr.dataStart ∧ e = s.hdr.dataEnd ∧
        n = (Memory.u32 s.pkt b).toNat ∧ il = (Memory.u32 s.pkt (b + 4)).toNat ∧
        ll = (Memory.u32 s.pkt (b + 8)).toNat ∧ b + 16 + 4 * n + il + ll ≤ e) ∧
    (∃ (s : State) (b e n il ll : Nat), s.seq.stage = .dispatch ∧
        s.has [.flagsAB, .dims, .headerSize, .dataEnd] = true ∧ Reg.isFirst ∉ s.written ∧ s.hdr.extraException = false ∧
        s.hdr.animated = false ∧ s.hdr.encoderMode = s.cfg.w2Mode ∧ s.hdr.depth = 1 ∧ s.hdr.w ≠ 0 ∧ s.hdr.h ≠ 0 ∧
        s.hdr.dataEnd ≤ s.len ∧ s.cfg.w2Layout = Config.tc0.w2Layout ∧ b = s.hdr.dataStart ∧ e = s.hdr.dataEnd ∧
        n = (Memory.u32 s.pkt b).toNat ∧ il = (Memory.u32 s.pkt (b + 4)).toNat ∧
        ll = (Memory.u32 s.pkt (b + 8)).toNat ∧ e < b + 16 + 4 * n + il + ll) :=
  ⟨⟨still (headerW2 1 33) packetP1, 12, 33, 0, 1, 4, by decide +kernel⟩,
    ⟨still (headerW2 1 32) packetP1, 12, 32, 0, 1, 4, by decide +kernel⟩⟩

/-- A depth-2 frame at the dispatch whose first stored word is `size`. -/
def depth2Dispatch (size : Byte) (maxPacket : Nat) : State :=
  { still (headerW2 2 36) (List.replicate 12 0 ++ [size] ++ List.replicate 23 0) with
    cfg := { Config.tc0 with d2 := some D2Coding.sample, maxPacket := maxPacket } }

/-- The regions of such a frame: five empty ones at 36. -/
def depth2Regions (size : Nat) : D2Regions :=
  let r : Region := { start := 36, stop := 36 }
  { size := size, bits := r, byte0 := r, byte1 := r, byte2 := r, byte3 := r, valid := true }

/-- The same state under a P13 that an implementation gives. -/
def implP13 (s : State) : State :=
  { s with cfg := { s.cfg with w2Layout := { s.cfg.w2Layout with regions := .impl 7 } } }

/-- The hypotheses that every clause of `DispatchW2D2Starts` has. -/
def w2d2At (s : State) : Bool :=
  decide (s.seq.stage = .dispatch) && s.has [.flagsAB, .headerSize, .dataEnd] && !s.hdr.extraException &&
  !s.hdr.animated && s.hdr.encoderMode == s.cfg.w2Mode && s.hdr.depth == 2 && decide (Reg.isFirst ∉ s.written)

theorem test_witness_DispatchW2D2Starts :
    (∃ s : State, w2d2At s = true ∧ s.cfg.d2 = none) ∧
    (∃ (s : State) (d : D2Coding), w2d2At s = true ∧ s.cfg.d2 = some d ∧ s.d2Regions d = none) ∧
    (∃ (s : State) (d : D2Coding) (g : D2Regions), w2d2At s = true ∧ s.cfg.d2 = some d ∧ s.d2Regions d = some g ∧
        d2Ok g s.hdr.headerSize.toNat s.hdr.dataEnd = false) ∧
    (∃ (s : State) (d : D2Coding) (g : D2Regions), w2d2At s = true ∧ s.cfg.d2 = some d ∧ s.d2Regions d = some g ∧
        d2Ok g s.hdr.headerSize.toNat s.hdr.dataEnd = true ∧ s.cfg.maxPacket < g.size) ∧
    (∃ (s : State) (d : D2Coding) (g : D2Regions), w2d2At s = true ∧ s.cfg.d2 = some d ∧ s.d2Regions d = some g ∧
        d2Ok g s.hdr.headerSize.toNat s.hdr.dataEnd = true ∧ g.size ≤ s.cfg.maxPacket ∧ 0 < g.size) ∧
    (∃ (s : State) (d : D2Coding) (g : D2Regions), w2d2At s = true ∧ s.cfg.d2 = some d ∧ s.d2Regions d = some g ∧
        d2Ok g s.hdr.headerSize.toNat s.hdr.dataEnd = true ∧ g.size = 0) ∧
    (∃ (s : State) (d : D2Coding) (g : D2Regions) (id : Nat), w2d2At s = true ∧ s.cfg.d2 = some d ∧
        s.d2Regions d = some g ∧ d2Ok g s.hdr.headerSize.toNat s.hdr.dataEnd = true ∧ g.size = 0 ∧
        s.cfg.w2Layout.regions = .impl id) :=
  ⟨⟨still (headerW2 2 36) packetP1, by decide +kernel⟩,
    ⟨{ depth2Dispatch 20 20 with hdr := headerW2 2 35 }, D2Coding.sample, by decide +kernel⟩,
    ⟨{ still (headerW2 2 36) (List.replicate 12 0 ++ [20, 0, 0, 0, 1] ++ List.replicate 19 0) with
        cfg := { Config.tc0 with d2 := some D2Coding.sample } }, D2Coding.sample,
      { size := 20, bits := { start := 36, stop := 37 }, byte0 := { start := 37, stop := 37 },
        byte1 := { start := 37, stop := 37 }, byte2 := { start := 37, stop := 37 }, byte3 := { start := 37, stop := 37 },
        valid := false }, by decide +kernel⟩,
    ⟨depth2Dispatch 21 20, D2Coding.sample, depth2Regions 21, by decide +kernel⟩,
    ⟨depth2Dispatch 20 20, D2Coding.sample, depth2Regions 20, by decide +kernel⟩,
    ⟨depth2Dispatch 0 20, D2Coding.sample, depth2Regions 0, by decide +kernel⟩,
    ⟨implP13 (depth2Dispatch 0 20), D2Coding.sample, depth2Regions 0, 7, by decide +kernel⟩⟩

/-- R220, R233: `S = 0`, and a tail that ends at `S = 15`, leave no room for the nested header under any P13. -/
theorem test_step_nested_header_does_not_fit :
    ends (step (implP13 (depth2Dispatch 0 20))) (depth2Dispatch 0 20) .invalidData ∧
    ends (step (implP13 { strips .d2Tail 0 1 (List.replicate 21 0) with size := 15 })) (strips .d2Tail 0 1 [])
      .invalidData := by decide +kernel

theorem test_witness_CompletionStep :
    (∃ s : State, s.seq.stage = .complete ∧ s.has (.dims :: (outNeeds s.hdr ++ meaningNeeds s.hdr)) = true ∧
        2 * s.fw ≤ s.stride ∧ (s.fh - 1) * s.stride + 2 * s.fw ≤ s.cap ∧ s.hdr.animated = false ∧
        s.hdr.indexColor = false ∧ Reg.isFirst ∉ s.written ∧ Reg.alphaBytes ∉ s.written) ∧
    (∃ s : State, s.seq.stage = .complete ∧ s.has (.dims :: (outNeeds s.hdr ++ meaningNeeds s.hdr)) = true ∧
        2 * s.fw ≤ s.stride ∧ (s.fh - 1) * s.stride + 2 * s.fw ≤ s.cap ∧ s.hdr.animated = true ∧
        s.hdr.transparency = true ∧ s.hdr.indexColor = true ∧
        s.cfg.indexColor = .decode .atHeader (.impl 1)) :=
  ⟨⟨{ still (headerW2 1 33) packetP1 with seq := { Seq.atRest with unit := .complete, stage := .complete } },
      by decide +kernel⟩,
    ⟨{ atStage .complete { animatedHeader true with transparency := true, indexColor := true } [] with
        cfg := { Config.tc0 with indexColor := .decode .atHeader (.impl 1) } }, by decide +kernel⟩⟩

theorem test_witness_BitReadLaw :
    (∃ (c : BitCursor) (n : Nat), n ≤ 8 * (c.stop - c.start) - c.bitpos) ∧
    (∃ (c : BitCursor) (n : Nat), 8 * (c.stop - c.start) - c.bitpos < n) :=
  ⟨⟨{ mem := .packet, start := 3, stop := 4, bitpos := 7 }, 1, by decide +kernel⟩,
    ⟨{ mem := .packet, start := 3, stop := 4, bitpos := 7 }, 2, by decide +kernel⟩⟩

theorem test_witness_ByteReadLaw :
    (∃ (c : ByteCursor) (n : Nat), n ≤ c.stop - c.pos) ∧
    (∃ (c : ByteCursor) (n : Nat), c.stop - c.pos < n) :=
  ⟨⟨{ mem := .packet, start := 0, stop := 2, pos := 0 }, 2, by decide +kernel⟩,
    ⟨{ mem := .packet, start := 0, stop := 2, pos := 1 }, 2, by decide +kernel⟩⟩

theorem test_witness_PredInside :
    (∃ (s : State) (x y : Int), s.has [.dims] = true ∧ 0 ≤ x ∧ x < s.fw ∧ 0 ≤ y ∧ y < s.fh) ∧
    (∃ (s : State) (x y : Int), s.has [.dims] = true ∧ (x < 0 ∨ (s.fw : Int) ≤ x ∨ y < 0 ∨ (s.fh : Int) ≤ y)) :=
  ⟨⟨body 8 4 .a9llIntra .tile [], 7, 3, by decide +kernel⟩,
    ⟨body 8 4 .a9llIntra .tile [], 8, 0, by decide +kernel⟩⟩

theorem test_witness_IntraTileModes :
    (∃ s : State, s.seq.stage = .tile ∧ s.bitsReady .bit1 2 = true ∧ s.bytesReady .maskc 2 = true) :=
  ⟨{ body 8 4 .a9llIntra .tile [0, 0, 0, 0, 0, 0, 1, 2] with
      bit1 := { mem := .packet, start := 0, stop := 4, bitpos := 30 } }, by decide +kernel⟩

theorem test_witness_EdgeMode :
    (∃ (s : State) (k : TileKind) (n : Nat) (i : Instr), s.seq.stage = .tile ∧ k = .frame ∧ n = 2 ∧ i = .tile2Edge ∧
        s.has [.dims] = true ∧ s.bitsReady .bit1 n = true ∧ s.tileFits k = true) ∧
    (∃ (s : State) (k : TileKind) (n : Nat) (i : Instr), s.seq.stage = .sub .sub3 ∧ k = (.within .sub3) ∧ n = 3 ∧
        i = .s3Edge ∧ s.has [.dims] = true ∧ s.bitsReady .bit1 n = true ∧ s.tileFits k = true) ∧
    (∃ (s : State) (k : TileKind) (n : Nat) (i : Instr), s.seq.stage = .sub .sub2 ∧ k = (.within .sub2) ∧ n = 2 ∧
        i = .s2Edge ∧ s.has [.dims] = true ∧ s.bitsReady .bit1 n = true ∧ s.tileFits k = true) ∧
    (∃ (s : State) (k : TileKind) (n : Nat) (i : Instr), s.seq.stage = .sub .cells ∧ k = (.within .cells) ∧ n = 2 ∧
        i = .s2Edge ∧ s.has [.dims] = true ∧ s.bitsReady .bit1 n = true ∧ s.tileFits k = true) :=
  ⟨⟨at_ (body 8 4 .a9llIntra .tile [0, 0, 0, 0, 0, 0]) 1 0 0, .frame, 2, .tile2Edge, by decide +kernel⟩,
    ⟨at_ (body 16 16 .a9llInter (.sub .sub3) [0, 0, 0, 0, 0, 0]) 0 15 0, (.within .sub3), 3, .s3Edge,
        by decide +kernel⟩,
    ⟨body 16 16 .a9llInter (.sub .sub2) [0, 0, 0, 0, 0, 0], (.within .sub2), 2, .s2Edge, by decide +kernel⟩,
    ⟨body 6 4 .a9llInter (.sub .cells) [0, 0, 0, 0, 0, 0], (.within .cells), 2, .s2Edge, by decide +kernel⟩⟩

theorem test_witness_PixelCopy :
    (∃ (s : State) (pr : Predictor) (k : TileKind), s.pixelStands pr k true = true ∧
        s.predReady pr (s.pixelAt k).1 (s.pixelAt k).2 = true) ∧
    (∃ (s : State) (pr : Predictor) (k : TileKind), s.pixelStands pr k true = true ∧
        s.predReady pr (s.pixelAt k).1 (s.pixelAt k).2 = true) ∧
    (∃ (s : State) (pr : Predictor) (k : TileKind), s.pixelStands pr k true = true ∧
        s.predReady pr (s.pixelAt k).1 (s.pixelAt k).2 = true) :=
  ⟨⟨{ at_ (body 16 16 .a9llIntra (.pixel (.dir .up) .frame) [0, 0, 0, 0, 0, 0, 1, 2]) 0 15 15 with mask := 0x8000 },
      .dir .up, .frame, by decide +kernel⟩,
    ⟨{ at_ (body 16 16 .a9llInter (.pixel .ref (.within .sub3)) [0, 0, 0, 0, 0, 0, 1, 2]) 0 15 15 with
        mask := 0x8000 }, .ref, .within .sub3, by decide +kernel⟩,
    ⟨{ at_ (body 16 16 .a9llInter (.pixel .refMv (.within .sub3)) [0, 0, 0, 0, 0, 0, 1, 2]) 0 15 15 with
        mask := 0x8000, mv := { x := -15, y := -15 } }, .refMv, .within .sub3, by decide +kernel⟩⟩

theorem test_witness_PixelResidual :
    (∃ (s : State) (pr : Predictor) (k : TileKind), s.pixelStands pr k false = true ∧
        s.predReady pr (s.pixelAt k).1 (s.pixelAt k).2 = true ∧ s.has [.dt] = true ∧ s.dt.length = 511 ∧
        s.bitsReady .bit2 3 = true ∧ s.bitsReady .bit1 1 = true ∧ s.bitsReady .bit1 2 = true ∧
        s.bitsReady .bit1 3 = true ∧ s.bitsReady .bit1 4 = true ∧ s.bitsReady .bit1 5 = true ∧
        s.bitsReady .bit1 6 = true ∧ s.bitsReady .bit1 7 = true) :=
  ⟨{ at_ (body 16 16 .a9llIntra (.pixel (.dir .left) .frame) [0, 0, 0, 0, 0, 0, 1, 2]) 0 15 15 with
      mask := 0x7FFF }, .dir .left, .frame, by decide +kernel⟩

theorem test_witness_PixelResidual_addresses :
    (∃ a : Nat, a ≤ 253) :=
  ⟨253, by decide +kernel⟩

theorem test_witness_PixelLiteral :
    (∃ (s : State) (pr : Predictor) (k : TileKind), s.pixelStands pr k false = true ∧ s.bitsReady .bit2 3 = true ∧
        s.bytesReady .litc 2 = true) :=
  ⟨{ at_ (body 16 16 .a9llIntra (.pixel (.dir .left) .frame) [0, 0, 0, 0, 0, 0, 1, 2]) 0 15 15 with
      mask := 0x7FFF }, .dir .left, .frame, by decide +kernel⟩

theorem test_witness_DeltaTables :
    (∃ (s : State) (signs : List Byte) (mags : List Half), s.seq.stage = .table ∧ signs.length = 512 ∧
        mags.length = 512 ∧ s.has [.flagsAB, .dims] = true ∧ s.hdr.dynamicTable = true ∧ s.bytesReady .tabc 1536 = true) ∧
    (∃ s : State, s.seq.stage = .table ∧ s.has [.flagsAB, .version, .dims] = true ∧ s.hdr.dynamicTable = false) :=
  ⟨⟨{ body 8 4 .a9llIntra .table (List.replicate 1542 0) with hdr := { sized 8 4 with dynamicTable := true } },
      List.replicate 512 0, List.replicate 512 0x8000, by decide +kernel⟩,
    ⟨body 8 4 .a9llInter .table [], by decide +kernel⟩⟩

theorem test_witness_MacroblockCopies :
    (∃ s : State, s.has [.dims] = true ∧ s.mbFull = true ∧ s.refUsable = true ∧ s.seq.stage = .mb ∧
        s.bitsReady .bit1 2 = true) ∧
    (∃ s : State, s.has [.dims] = true ∧ s.mbFull = true ∧ s.refUsable = true ∧ s.seq.stage = .mvCopy ∧
        s.bitsReady .bit1 1 = true ∧ s.mvInside = true) :=
  ⟨⟨at_ (body 32 16 .a9llInter .mb [0, 0, 0, 0, 0, 0]) 1 0 0, by decide +kernel⟩,
    ⟨{ at_ (body 32 16 .a9llInter .mvCopy [0, 0, 0, 0, 0, 0]) 1 0 0 with mv := { x := -16, y := 0 } },
        by decide +kernel⟩⟩

theorem test_witness_MacroblockVectors :
    (∃ s : State, s.seq.stage = .mb ∧ s.has [.dims] = true ∧ s.mbFull = true ∧ s.bitsReady .bit1 3 = true) ∧
    (∃ s : State, s.seq.stage = .mb ∧ s.has [.dims] = true ∧ s.mbFull = true ∧ s.bitsReady .bit1 18 = true) :=
  ⟨⟨body 16 16 .a9llInter .mb [0, 0, 0, 0, 0, 0], by decide +kernel⟩,
    ⟨{ body 16 16 .a9llInter .mb [0, 0, 0, 0, 0, 0] with
        bit1 := { mem := .packet, start := 0, stop := 4, bitpos := 14 } }, by decide +kernel⟩⟩

theorem test_witness_SequenceOpeners :
    (∃ s : State, s.has [.dims] = true ∧ s.bitsReady .bit1 1 = true ∧ s.seq.stage = .mvCopy) ∧
    (∃ s : State, s.has [.dims] = true ∧ s.bitsReady .bit1 1 = true ∧ s.seq.stage = .mb ∧ s.mbFull = true) ∧
    (∃ s : State, s.has [.dims] = true ∧ s.bitsReady .bit1 1 = true ∧ s.seq.stage = .mb ∧ s.mbFull = false) :=
  ⟨⟨body 16 16 .a9llInter .mvCopy [0, 0, 0, 0, 0, 0], by decide +kernel⟩,
    ⟨body 16 16 .a9llInter .mb [0, 0, 0, 0, 0, 0], by decide +kernel⟩,
    ⟨body 16 15 .a9llInter .mb [0, 0, 0, 0, 0, 0], by decide +kernel⟩⟩

theorem test_witness_QpGate :
    (∃ (s : State) (k : SubKind), s.seq.stage = .gate k ∧ s.has [.qpGate] = true ∧ s.hdr.qpGate = true) ∧
    (∃ (s : State) (k : SubKind), s.seq.stage = .gate k ∧ s.has [.qpGate] = true ∧ s.hdr.qpGate = false) :=
  ⟨⟨body 16 16 .a9llInter (.gate .cells) [], .cells, by decide +kernel⟩,
    ⟨{ body 16 16 .a9llInter (.gate .sub2) [] with hdr := Header.zero }, .sub2, by decide +kernel⟩⟩

theorem test_witness_SubBlockModes :
    (∃ s : State, s.bytesReady .maskc 2 = true ∧ s.seq.stage = .sub .sub3 ∧ s.bitsReady .bit1 3 = true) ∧
    (∃ s : State, s.bytesReady .maskc 2 = true ∧ s.seq.stage = .sub .sub2 ∧ s.bitsReady .bit1 2 = true) ∧
    (∃ s : State, s.bytesReady .maskc 2 = true ∧ s.seq.stage = .sub .cells ∧ s.bitsReady .bit1 2 = true ∧
        s.has [.dims] = true ∧ s.tileFits (.within .cells) = true) :=
  ⟨⟨body 16 16 .a9llInter (.sub .sub3) [0, 0, 0, 0, 0, 0, 1, 2], by decide +kernel⟩,
    ⟨body 16 16 .a9llInter (.sub .sub2) [0, 0, 0, 0, 0, 0, 1, 2], by decide +kernel⟩,
    ⟨body 6 4 .a9llInter (.sub .cells) [0, 0, 0, 0, 0, 0, 1, 2], by decide +kernel⟩⟩

theorem test_witness_SubBlockCopies :
    (∃ s : State, s.seq.stage = .sub .sub3 ∧ s.has [.dims, .mv] = true ∧ s.bitsReady .bit1 3 = true ∧
        s.tileFits (.within .sub3) = true ∧ s.refUsable = true) :=
  ⟨at_ (body 16 16 .a9llInter (.sub .sub3) [0, 0, 0, 0, 0, 0]) 0 15 0, by decide +kernel⟩

theorem test_witness_LiteralCell :
    (∃ (s : State) (lits : List Half) (w h : Nat), s.seq.stage = .sub .cells ∧ s.has [.dims] = true ∧
        s.subAt.1 < s.fw ∧ s.subAt.2 < s.fh ∧ s.tileFits (.within .cells) = false ∧ w = min 4 (s.fw - s.subAt.1) ∧
        h = min 4 (s.fh - s.subAt.2) ∧ lits.length = w * h ∧ s.bytesReady .edgelit (2 * (w * h)) = true) :=
  ⟨at_ (body 6 4 .a9llInter (.sub .cells) (List.replicate 22 0)) 0 1 0, List.replicate 8 1, 2, 4, by decide +kernel⟩

theorem test_witness_SubBlockOrder :
    (∃ sb : Nat, sb ≤ 15) :=
  ⟨15, by decide +kernel⟩

theorem test_witness_W2ValueLiteral :
    (∃ (s : State) (v : Nat), s.seq.stage = .w2Index ∧ s.bytesReady .idx (v / 255 + 1) = true) ∧
    (∃ s : State, s.seq.stage = .w2Sym 0 ∧ s.has [.dims, .pixelCount] = true ∧ s.bytesReady .lit 4 = true ∧
        s.bytesReady .idx 0 = true ∧ s.n = s.fw * s.fh ∧ s.k < s.n) :=
  ⟨⟨body 4 4 .w2d1 .w2Index [0, 0, 0, 0, 0, 0, 0xFF, 0x00], 255, by decide +kernel⟩,
    ⟨{ body 3 1 .w2d1 (.w2Sym 0) [0, 0, 0, 0, 0, 0, 1, 2, 3, 4] with k := 2 }, by decide +kernel⟩⟩

theorem test_witness_W2RunEmits :
    (∃ (s : State) (idx : Nat), 1 ≤ idx ∧ s.seq.stage = .w2Sym idx ∧ s.has [.rsW2D1] = true ∧
        s.holds s.tab.mem s.tab.stop = true ∧ s.tab.stop < s.tab.start + 4 * (idx - 1) + 4) ∧
    (∃ (s : State) (idx run : Nat) (q : Word), 1 ≤ idx ∧ s.seq.stage = .w2Sym idx ∧ s.has [.rsW2D1] = true ∧
        s.holds s.tab.mem s.tab.stop = true ∧ s.tab.start + 4 * (idx - 1) + 4 ≤ s.tab.stop ∧
        s.has [.dims, .pixelCount] = true ∧ s.bytesReady .run (run / 255 + 1) = true ∧ s.bytesReady .idx 0 = true ∧
        s.n = s.fw * s.fh ∧ s.k < s.n ∧ q = Memory.u32 (s.mem s.tab.mem) (s.tab.start + 4 * (idx - 1))) :=
  ⟨⟨{ runState [1] with seq := { Seq.atRest with stage := .w2Sym 2 } }, 2, by decide +kernel⟩,
    ⟨{ runState [0xFF, 0x00] with k := 15 }, 1, 255, 0x44332211, by decide +kernel⟩⟩

theorem test_witness_DepthTwoOpeners :
    (∃ (s : State) (d : D2Coding), s.cfg.d2 = some d ∧ s.seq.stage = .d2Strip1 ∧ s.has [.ibuf, .size] = true ∧
        16 ≤ s.size ∧ s.bytesReady .d2l 4 = true) ∧
    (∃ (s : State) (d : D2Coding) (code : List Bool) (kind : StripKind), s.cfg.d2 = some d ∧ s.seq.stage = .d2Sel ∧
        d.selector.spells code (some kind) = true ∧ s.bitsReady .d2b code.length = true) ∧
    (∃ (s : State) (d : D2Coding), s.cfg.d2 = some d ∧ s.seq.stage = .d2Body .strip2 ∧ d.maskInBits = true ∧
        s.bitsReady .d2b 8 = true) ∧
    (∃ (s : State) (d : D2Coding), s.cfg.d2 = some d ∧ s.seq.stage = .d2Body .strip2 ∧ d.maskInBits = false ∧
        s.bytesReady .d2mask 1 = true) :=
  ⟨⟨{ strips .d2Strip1 0 1 [0, 0, 0, 0, 0, 0, 1, 2, 3, 4] with size := 16 }, D2Coding.sample, by decide +kernel⟩,
    ⟨strips .d2Sel 16 1 [0, 0, 0, 0, 0, 0], D2Coding.sample, [true, true, false], .strip2, by decide +kernel⟩,
    ⟨{ strips (.d2Body .strip2) 16 1 [0, 0, 0, 0, 0, 0] with cfg := { Config.tc0 with
        d2 := some { D2Coding.sample with maskInBits := true } } }, { D2Coding.sample with
        maskInBits := true }, by decide +kernel⟩,
    ⟨strips (.d2Body .strip2) 16 1 [0, 0, 0, 0, 0, 0, 1], D2Coding.sample, by decide +kernel⟩⟩

theorem test_witness_DistanceUpdate :
    (∃ (s : State) (d : D2Coding) (strip : Strip) (j : Nat) (flag : Bool), s.cfg.d2 = some d ∧
        s.seq.stage = .d2Dist strip j ∧ s.bitsReady .d2b 1 = true ∧
        (if flag then d.distIfSet else d.distIfClear) = .keep) ∧
    (∃ (s : State) (d : D2Coding) (strip : Strip) (j : Nat) (flag : Bool), s.cfg.d2 = some d ∧
        s.seq.stage = .d2Dist strip j ∧ s.bitsReady .d2b 1 = true ∧
        (if flag then d.distIfSet else d.distIfClear) = .byte ∧ s.bytesReady .d2dist 1 = true) ∧
    (∃ (s : State) (d : D2Coding) (strip : Strip) (j : Nat) (flag : Bool), s.cfg.d2 = some d ∧
        s.seq.stage = .d2Dist strip j ∧ s.bitsReady .d2b 1 = true ∧
        (if flag then d.distIfSet else d.distIfClear) = .half ∧ s.bytesReady .d2dist 2 = true) :=
  ⟨⟨strips (.d2Dist .first 4) 4 1 [0, 0, 0, 0, 0, 0], D2Coding.sample, .first, 4, false, by decide +kernel⟩,
    ⟨strips (.d2Dist (.later 0) 6) 4 1 [0, 0, 0, 0, 0, 0, 1], D2Coding.sample, .later 0, 6, true, by decide +kernel⟩,
    ⟨{ strips (.d2Dist .first 0) 4 1 [0, 0, 0, 0, 0, 0, 1, 2] with cfg := { Config.tc0 with
        d2 := some { D2Coding.sample with distIfSet := .half } } }, { D2Coding.sample with
        distIfSet := .half }, .first, 0, true, by decide +kernel⟩⟩

theorem test_witness_DepthTwoValues :
    (∃ (s : State) (d : D2Coding) (strip : Strip) (j : Nat) (code : List Bool), s.cfg.d2 = some d ∧
        s.seq.stage = .d2Value strip j ∧ s.has [.ibuf, .size, .ipos, .dist] = true ∧
        s.bitsReady .d2b code.length = true ∧ s.ipos + 2 ≤ s.size ∧
        (kindCode d strip j).spells code .backref = true ∧ 1 ≤ s.dist ∧ s.dist ≤ s.ipos) ∧
    (∃ (s : State) (d : D2Coding) (strip : Strip) (j : Nat) (code : List Bool), s.cfg.d2 = some d ∧
        s.seq.stage = .d2Value strip j ∧ s.has [.ibuf, .size, .ipos, .dist] = true ∧
        s.bitsReady .d2b code.length = true ∧ s.ipos + 2 ≤ s.size ∧
        (kindCode d strip j).spells code .backref = true ∧ (s.dist = 0 ∨ s.ipos < s.dist)) ∧
    (∃ (s : State) (d : D2Coding) (strip : Strip) (j : Nat) (code : List Bool), s.cfg.d2 = some d ∧
        s.seq.stage = .d2Value strip j ∧ s.has [.ibuf, .size, .ipos, .dist] = true ∧
        s.bitsReady .d2b code.length = true ∧ s.ipos + 2 ≤ s.size ∧ (kindCode d strip j).spells code .lit = true ∧
        s.bytesReady .d2l 2 = true) ∧
    (∃ (s : State) (d : D2Coding) (strip : Strip) (j : Nat) (code : List Bool) (key : Byte) (base : Half),
        s.cfg.d2 = some d ∧ s.seq.stage = .d2Value strip j ∧ s.has [.ibuf, .size, .ipos, .dist] = true ∧
        s.bitsReady .d2b code.length = true ∧ s.ipos + 2 ≤ s.size ∧ (kindCode d strip j).spells code .xor = true ∧
        s.bytesReady .d2key 1 = true ∧ base = s.xorOperand d.xorBase ∧ key.toNat < d.xtab.length ∧
        s.xorReady d.xorBase = true) ∧
    (∃ (s : State) (d : D2Coding) (strip : Strip) (j : Nat) (code : List Bool) (key : Byte) (base : Half),
        s.cfg.d2 = some d ∧ s.seq.stage = .d2Value strip j ∧ s.has [.ibuf, .size, .ipos, .dist] = true ∧
        s.bitsReady .d2b code.length = true ∧ s.ipos + 2 ≤ s.size ∧ (kindCode d strip j).spells code .xor = true ∧
        s.bytesReady .d2key 1 = true ∧ base = s.xorOperand d.xorBase ∧
        (d.xtab.length ≤ key.toNat ∨ s.xorReady d.xorBase = false)) :=
  ⟨⟨strips (.d2Value .first 5) 4 4 [0, 0, 0, 0, 0, 0], D2Coding.sample, .first, 5, [true, false], by decide +kernel⟩,
    ⟨strips (.d2Value .first 5) 4 5 [0, 0, 0, 0, 0, 0], D2Coding.sample, .first, 5, [true, false], by decide +kernel⟩,
    ⟨strips (.d2Value (.later 0) 7) 4 1 [0, 0, 0, 0, 0, 0, 1, 2], D2Coding.sample, .later 0, 7, [],
        by decide +kernel⟩,
    ⟨{ strips (.d2Value (.later 0x80) 7) 4 1 [0, 0, 0, 0, 0, 0, 1] with cfg := { Config.tc0 with
        d2 := some { D2Coding.sample with xorBase := .const 0x00FF } } }, { D2Coding.sample with
        xorBase := .const 0x00FF }, .later 0x80, 7, [true], 3, 0x00FF, by decide +kernel⟩,
    ⟨{ strips (.d2Value (.later 0x80) 7) 4 1 [0, 0, 0, 0, 0, 0, 1] with cfg := { Config.tc0 with
        d2 := some { D2Coding.sample with xorBase := .const 0x00FF } } }, { D2Coding.sample with
        xorBase := .const 0x00FF }, .later 0x80, 7, [true], 4, 0x00FF, by decide +kernel⟩⟩

/-- `IBUF` full but for its last bytes: the 16-byte header `n`, 1, 4, 0 of the nested pass, then zeros up to `size`. -/
def nestedStrips (stage : Stage) (n : Byte) (size ipos : Nat) (packet : List Byte) : State :=
  { strips stage ipos 1 packet with size := size, ibuf := Memory.setBytes [] 0 [n, 0, 0, 0, 1, 0, 0, 0, 4] }

/-- The last value and the last strip that end exactly at `S = 32`: the nested pass's regions (16 + 4n + 1 + 4 bytes) fit
`S` for `n = 2`, not for `n = 3`. -/
theorem test_witness_HandsOver :
    (∃ (s : State) (d : D2Coding) (strip : Strip) (j : Nat) (code : List Bool), s.cfg.d2 = some d ∧
        s.seq.stage = .d2Value strip j ∧ s.has [.ibuf, .size, .ipos, .dist] = true ∧
        s.bitsReady .d2b code.length = true ∧ (kindCode d strip j).spells code .lit = true ∧
        s.bytesReady .d2l 2 = true ∧ j + 1 = stripValues strip ∧ s.ipos + 2 = s.size ∧ s.has [.dims] = true ∧
        s.hdr.w ≠ 0 ∧ s.hdr.h ≠ 0 ∧ s.cfg.w2Layout = Config.tc0.w2Layout) ∧
    (∃ (s : State) (d : D2Coding), s.cfg.d2 = some d ∧ s.has [.ibuf, .size, .ipos, .dist] = true ∧
        s.ipos + 16 = s.size ∧ s.seq.stage = .d2Body .verb ∧ s.bytesReady .d2l 16 = true ∧ s.has [.dims] = true ∧
        s.hdr.w ≠ 0 ∧ s.hdr.h ≠ 0 ∧ s.cfg.w2Layout = Config.tc0.w2Layout) ∧
    (∃ (s : State) (d : D2Coding), s.cfg.d2 = some d ∧ s.has [.ibuf, .size, .ipos, .dist] = true ∧
        s.ipos + 16 = s.size ∧ s.seq.stage = .d2Body .back ∧ 1 ≤ s.dist ∧ s.dist ≤ s.ipos ∧ s.has [.dims] = true ∧
        s.hdr.w ≠ 0 ∧ s.hdr.h ≠ 0 ∧ s.cfg.w2Layout = Config.tc0.w2Layout) :=
  ⟨⟨nestedStrips (.d2Value (.later 0) 7) 2 32 30 [0, 0, 0, 0, 0, 0, 7, 9], D2Coding.sample, .later 0, 7, [],
      by decide +kernel⟩,
    ⟨nestedStrips (.d2Body .verb) 2 32 16 (List.replicate 22 0), D2Coding.sample, by decide +kernel⟩,
    ⟨nestedStrips (.d2Body .back) 2 32 16 (List.replicate 6 0), D2Coding.sample, by decide +kernel⟩⟩

/-- R220, R233: after the last value or strip the depth-1 pass starts over `IBUF`, or raises `INVALID_DATA`. -/
theorem test_step_handover :
    gives (step (nestedStrips (.d2Value (.later 0) 7) 2 32 30 [0, 0, 0, 0, 0, 0, 7, 9]))
      (fun t => t.seq.stage == .w2Index && t.idx == { mem := .ibuf, start := 24, stop := 25, pos := 24 } &&
        t.lit.stop == 29 && t.ipos == 32 && Store.get t.ibuf 30 == 7 && Store.get t.ibuf 31 == 9) ∧
    gives (step (nestedStrips (.d2Body .back) 2 32 16 (List.replicate 6 0)))
      (fun t => t.seq.stage == .w2Index && t.n == 16 && t.k == 0) ∧
    ends (step (nestedStrips (.d2Body .verb) 3 32 16 (List.replicate 22 0)))
      (nestedStrips (.d2Body .verb) 3 32 16 []) .invalidData := by decide +kernel

theorem test_witness_LaterStrips :
    (∃ (s : State) (d : D2Coding) (bytes : List Byte), s.cfg.d2 = some d ∧
        s.has [.ibuf, .size, .ipos, .dist] = true ∧ s.ipos + 16 < s.size ∧ s.seq.stage = .d2Body .verb ∧
        bytes.length = 16 ∧ s.bytesReady .d2l 16 = true) ∧
    (∃ (s : State) (d : D2Coding), s.cfg.d2 = some d ∧ s.has [.ibuf, .size, .ipos, .dist] = true ∧
        s.ipos + 16 < s.size ∧ s.seq.stage = .d2Body .back ∧ 1 ≤ s.dist ∧ s.dist ≤ s.ipos) ∧
    (∃ (s : State) (d : D2Coding), s.cfg.d2 = some d ∧ s.has [.ibuf, .size, .ipos, .dist] = true ∧
        s.ipos + 16 < s.size ∧ s.seq.stage = .d2Body .back ∧ (s.dist = 0 ∨ s.ipos < s.dist)) :=
  ⟨⟨{ strips (.d2Body .verb) 16 1 (List.replicate 22 0) with size := 33 }, D2Coding.sample, List.replicate 16 0xA5,
      by decide +kernel⟩,
    ⟨strips (.d2Body .back) 16 16 [0, 0, 0, 0, 0, 0], D2Coding.sample, by decide +kernel⟩,
    ⟨strips (.d2Body .back) 16 17 [0, 0, 0, 0, 0, 0], D2Coding.sample, by decide +kernel⟩⟩

theorem test_witness_TailAndNestedPass :
    (∃ (s : State) (d : D2Coding) (bytes : List Byte) (m : Memory) (n il ll : Nat), s.cfg.d2 = some d ∧
        s.seq.stage = .d2Tail ∧ s.has [.ibuf, .size, .ipos, .dims] = true ∧ s.ipos < s.size ∧
        bytes.length = s.size - s.ipos ∧ bytes.length ≤ 15 ∧ s.bytesReady .d2l bytes.length = true ∧ s.hdr.w ≠ 0 ∧
        s.hdr.h ≠ 0 ∧ s.cfg.w2Layout = Config.tc0.w2Layout ∧ m = Memory.setBytes s.ibuf s.ipos bytes ∧
        n = (Memory.u32 m 0).toNat ∧ il = (Memory.u32 m 4).toNat ∧ ll = (Memory.u32 m 8).toNat ∧
        16 + 4 * n + il + ll ≤ s.size) ∧
    (∃ (s : State) (d : D2Coding) (bytes : List Byte) (m : Memory) (n il ll : Nat), s.cfg.d2 = some d ∧
        s.seq.stage = .d2Tail ∧ s.has [.ibuf, .size, .ipos, .dims] = true ∧ s.ipos < s.size ∧
        bytes.length = s.size - s.ipos ∧ bytes.length ≤ 15 ∧ s.bytesReady .d2l bytes.length = true ∧ s.hdr.w ≠ 0 ∧
        s.hdr.h ≠ 0 ∧ s.cfg.w2Layout = Config.tc0.w2Layout ∧ m = Memory.setBytes s.ibuf s.ipos bytes ∧
        n = (Memory.u32 m 0).toNat ∧ il = (Memory.u32 m 4).toNat ∧ ll = (Memory.u32 m 8).toNat ∧
        s.size < 16 + 4 * n + il + ll) :=
  ⟨⟨{ strips .d2Tail 16 1 [0, 0, 0, 0, 0, 0, 0, 0xAA, 0xBB, 0xCC, 0xDD] with size := 21, ibuf := [(4, 1), (8, 4)] },
      D2Coding.sample, [0x00, 0xAA, 0xBB, 0xCC, 0xDD],
      Memory.setBytes [(4, 1), (8, 4)] 16 [0x00, 0xAA, 0xBB, 0xCC, 0xDD], 0, 1, 4, by decide +kernel⟩,
    ⟨{ strips .d2Tail 16 1 [0, 0, 0, 0, 0, 0, 0, 0xAA, 0xBB, 0xCC, 0xDD] with
        size := 20, ibuf := [(4, 1), (8, 4)] }, D2Coding.sample, [0x00, 0xAA, 0xBB, 0xCC], Memory.setBytes [(4, 1),
        (8, 4)] 16 [0x00, 0xAA, 0xBB, 0xCC], 0, 1, 4, by decide +kernel⟩⟩

/-- A state of the invariant inside a DECODE: an intra frame at its second tile. -/
def invState : State :=
  { at_ (body 8 4 .a9llIntra .tile [0xC0, 0, 0, 0, 0, 0]) 1 0 0 with
    hdr := { sized 8 4 with
      transparency := true, animated := true, alphaField := true, isFirst := true, headerSize := 24, alphaBytes := 8
      dataStart := 24, dataEnd := 32 }
    len := 32
    a9 := { p0 := payloadCursor 6 6, p1 := payloadCursor 6 6, p2 := payloadCursor 6 6, p3 := payloadCursor 6 6 } }

theorem test_witness_InvariantStep : invState.inv = true ∧ gives (step invState) (fun t => t.inv) = true := by
  decide +kernel

theorem test_witness_CanonicalStep : invState.canonical = true ∧
    gives (step invState) (fun t => t.canonical) = true := by
  decide +kernel

theorem test_witness_NoFault : ∃ s : State, s.inv = true ∧ s.seq.stage ≠ .idle := ⟨invState, by decide +kernel⟩

theorem test_witness_ConfigConstant : gives (step invState) (fun _ => true) = true := by decide +kernel

/-- A completion that changes the reference, and a RESET that clears it. -/
theorem test_witness_ReferenceChanges :
    (∃ s : State, gives (step s) (fun t => t.ref != s.ref) = true ∧ s.seq.stage = .complete) ∧
    (∃ s : State, gives (step s) (fun t => t.ref != s.ref) = true ∧ s.seq.stage = .idle) :=
  ⟨⟨atStage .complete (sized 2 1) [], by decide +kernel⟩,
   ⟨{ body 4 4 .complete .idle [] with status := { phase := .done, code := .ok }, queue := [.reset] },
    by decide +kernel⟩⟩

theorem test_witness_BitstreamUnwritten :
    (∃ s : State, gives (step s) (fun _ => true) = true ∧ s.seq.stage ≠ .idle) ∧
    (∃ s : State, gives (step s) (fun _ => true) = true ∧ s.seq.stage = .w2Index) :=
  ⟨⟨invState, by decide +kernel⟩, ⟨body 4 4 .w2d1 .w2Index [0, 0, 0, 0, 0, 0, 1], by decide +kernel⟩⟩

theorem test_witness_StatusAtEnd :
    ∃ s : State, s.seq.stage ≠ .idle ∧ s.status.phase = .busy ∧ gives (step s) (fun _ => true) = true :=
  ⟨invState, by decide +kernel⟩

/-- The fetch clauses of the header's statements, each at the shortest packet that holds its fields. -/
theorem test_witness_HdrFetch_fixed :
    (∃ s : State, s.seq.stage = .hdr .version ∧ 3 ≤ s.len) ∧
    (∃ s : State, s.seq.stage = .hdr .rawType ∧ 4 ≤ s.len) ∧
    (∃ s : State, s.seq.stage = .hdr .dims ∧ 10 ≤ s.len) ∧
    (∃ s : State, s.cfg.abLegacy = Config.tc0.abLegacy ∧ s.cfg.abModern = Config.tc0.abModern ∧
        s.cfg.cdLegacy = Config.tc0.cdLegacy ∧ s.cfg.cdModern = Config.tc0.cdModern ∧ s.has [.version] = true ∧
        s.seq.stage = .hdr .flagsAB ∧ 6 ≤ s.len) ∧
    (∃ s : State, s.cfg.abLegacy = Config.tc0.abLegacy ∧ s.cfg.abModern = Config.tc0.abModern ∧
        s.cfg.cdLegacy = Config.tc0.cdLegacy ∧ s.cfg.cdModern = Config.tc0.cdModern ∧ s.has [.version] = true ∧
        s.seq.stage = .hdr .flagsCD ∧ 12 ≤ s.len) :=
  ⟨⟨atStage (.hdr .version) Header.zero (header12.take 3), by decide +kernel⟩,
    ⟨atStage (.hdr .rawType) Header.zero (header12.take 4), by decide +kernel⟩,
    ⟨atStage (.hdr .dims) Header.zero (header12.take 10), by decide +kernel⟩,
    ⟨atStage (.hdr .flagsAB) Header.zero (header12.take 6), by decide +kernel⟩,
    ⟨atStage (.hdr .flagsCD) Header.zero header12, by decide +kernel⟩⟩

theorem test_witness_HdrAlphaModern_scale_fetch :
    ∃ s : State, s.seq.stage = .hdr .scale ∧ 16 ≤ s.len :=
  ⟨atStage (.hdr .scale) { Header.zero with alphaField := true } (List.replicate 16 0), by decide +kernel⟩

theorem test_witness_SymbolOperands_modes :
    (∃ (s : State) (m mask : Nat) (c : BitCursor), s.seq.stage = .tile ∧ s.bitsReady .bit1 2 = true ∧
        s.bytesReady .maskc (if m = 3 then 0 else 2) = true ∧ s.bit1.read (s.mem s.bit1.mem) 2 = .ok (m, c) ∧
        mask = (Memory.u16 (s.mem (s.a9.get s.a9map.maskc).mem) (s.a9.get s.a9map.maskc).pos).toNat ∧ m = 3) ∧
    (∃ (s : State) (m mask : Nat) (c : BitCursor), s.seq.stage = .tile ∧ s.bitsReady .bit1 2 = true ∧
        s.bytesReady .maskc (if m = 3 then 0 else 2) = true ∧ s.bit1.read (s.mem s.bit1.mem) 2 = .ok (m, c) ∧
        mask = (Memory.u16 (s.mem (s.a9.get s.a9map.maskc).mem) (s.a9.get s.a9map.maskc).pos).toNat ∧ m = 2) ∧
    (∃ (s : State) (m mask : Nat) (c : BitCursor), s.seq.stage = .sub .sub3 ∧ s.bitsReady .bit1 3 = true ∧
        s.bytesReady .maskc (if m = 3 ∨ m = 5 ∨ m = 7 then 0 else 2) = true ∧
        s.bit1.read (s.mem s.bit1.mem) 3 = .ok (m, c) ∧
        mask = (Memory.u16 (s.mem (s.a9.get s.a9map.maskc).mem) (s.a9.get s.a9map.maskc).pos).toNat ∧ m = 6) :=
  ⟨⟨body 8 4 .a9llIntra .tile [0xC0, 0, 0, 0, 0, 0], 3, 0,
      { mem := .packet, start := 0, stop := 4, bitpos := 2 }, by decide +kernel⟩,
    ⟨body 8 4 .a9llIntra .tile [0x80, 0, 0, 0, 0, 0, 0x34, 0x12], 2, 0x1234,
      { mem := .packet, start := 0, stop := 4, bitpos := 2 }, by decide +kernel⟩,
    ⟨body 16 16 .a9llInter (.sub .sub3) [0xC0, 0, 0, 0, 0, 0, 0x34, 0x12], 6, 0x1234,
      { mem := .packet, start := 0, stop := 4, bitpos := 3 }, by decide +kernel⟩⟩

theorem test_witness_SymbolOperands_pixels :
    (∃ (s : State) (pr : Predictor) (k : TileKind), s.pixelStands pr k true = true) ∧
    (∃ (s : State) (pr : Predictor) (k : TileKind) (m : Nat) (c : BitCursor), s.pixelStands pr k false = true ∧
        s.bitsReady .bit2 3 = true ∧ s.bit2.read (s.mem s.bit2.mem) 3 = .ok (m, c) ∧ m = 7 ∧
        s.bytesReady .litc 2 = true) ∧
    (∃ (s : State) (pr : Predictor) (k : TileKind) (m i : Nat) (c c' : BitCursor), s.pixelStands pr k false = true ∧
        s.bitsReady .bit2 3 = true ∧ s.bit2.read (s.mem s.bit2.mem) 3 = .ok (m, c) ∧ m ≤ 6 ∧
        s.bitsReady .bit1 (m + 1) = true ∧ s.bit1.read (s.mem s.bit1.mem) (m + 1) = .ok (i, c')) :=
  ⟨⟨{ body 8 4 .a9llIntra (.pixel (.dir .up) .frame) [0, 0, 0, 0, 0, 0] with mask := 1 }, .dir .up, .frame,
      by decide +kernel⟩,
    ⟨body 8 4 .a9llIntra (.pixel (.dir .up) .frame) [0, 0, 0, 0, 0xE0, 0, 1, 2], .dir .up, .frame, 7,
      { mem := .packet, start := 4, stop := 6, bitpos := 3 }, by decide +kernel⟩,
    ⟨body 8 4 .a9llIntra (.pixel (.dir .up) .frame) [0xFE, 0, 0, 0, 0xC0, 0], .dir .up, .frame, 6, 127,
      { mem := .packet, start := 4, stop := 6, bitpos := 3 }, { mem := .packet, start := 0, stop := 4, bitpos := 7 },
      by decide +kernel⟩⟩

theorem test_witness_SymbolOperands_vector_pair :
    (∃ (s : State) (a b : Nat) (c c' : BitCursor), s.seq.stage = .mb ∧ s.has [.dims] = true ∧ s.mbFull = true ∧
        s.bitsReady .bit1 18 = true ∧ s.bit1.bits (s.mem s.bit1.mem) 3 = [true, false, false] ∧
        (s.bit1.after 3).read (s.mem s.bit1.mem) 8 = .ok (a, c) ∧
        (s.bit1.after 11).read (s.mem s.bit1.mem) 7 = .ok (b, c')) ∧
    (∃ s : State, s.seq.stage = .w2Sym 0 ∧ s.bytesReady .lit 4 = true) :=
  ⟨⟨body 16 16 .a9llInter .mb [0x9F, 0xFF, 0xC0, 0, 0, 0], 255, 127,
      { mem := .packet, start := 0, stop := 4, bitpos := 11 }, { mem := .packet, start := 0, stop := 4, bitpos := 18 },
      by decide +kernel⟩,
    ⟨body 3 1 .w2d1 (.w2Sym 0) [0, 0, 0, 0, 0, 0, 1, 2, 3, 4], by decide +kernel⟩⟩

theorem test_witness_SymbolOperands_tables :
    (∃ s : State, s.seq.stage = .table ∧ s.has [.flagsAB] = true ∧ s.hdr.dynamicTable = false) ∧
    (∃ s : State, s.seq.stage = .table ∧ s.has [.flagsAB] = true ∧ s.hdr.dynamicTable = true ∧
        s.bytesReady .tabc 1536 = true) :=
  ⟨⟨body 8 4 .a9llIntra .table [0, 0, 0, 0, 0, 0], by decide +kernel⟩,
    ⟨{ body 8 4 .a9llIntra .table (List.replicate 1542 0) with hdr := { sized 8 4 with dynamicTable := true } },
      by decide +kernel⟩⟩

theorem test_witness_SymbolOperands_macroblocks :
    (∃ s : State, s.seq.stage = .mb ∧ s.has [.dims] = true ∧ s.mbFull = true ∧ s.codeUnder .bit1 [false] = true) ∧
    (∃ s : State, s.seq.stage = .mb ∧ s.has [.dims] = true ∧ s.mbFull = true ∧
        s.codeUnder .bit1 [true, true] = true) ∧
    (∃ s : State, s.seq.stage = .mb ∧ s.has [.dims] = true ∧ s.mbFull = true ∧
        s.codeUnder .bit1 [true, false, true] = true) ∧
    (∃ s : State, s.seq.stage = .mb ∧ s.has [.dims] = true ∧ s.mbFull = false ∧ s.codeUnder .bit1 [true] = true) ∧
    (∃ s : State, s.seq.stage = .mb ∧ s.has [.dims] = true ∧ s.mbFull = false ∧ s.codeUnder .bit1 [false] = true) ∧
    (∃ s : State, s.seq.stage = .mvCopy ∧ s.codeUnder .bit1 [true] = true) ∧
    (∃ s : State, s.seq.stage = .mvCopy ∧ s.codeUnder .bit1 [false] = true) ∧
    (∃ (s : State) (k : SubKind), s.seq.stage = .gate k) :=
  ⟨⟨bitAt (body 16 16 .a9llInter .mb [0, 0, 0, 0, 0, 0]) 31, by decide +kernel⟩,
    ⟨bitAt (body 16 16 .a9llInter .mb [0, 0, 0, 0x03, 0, 0]) 30, by decide +kernel⟩,
    ⟨bitAt (body 16 16 .a9llInter .mb [0, 0, 0, 0x05, 0, 0]) 29, by decide +kernel⟩,
    ⟨bitAt (body 6 4 .a9llInter .mb [0, 0, 0, 0x01, 0, 0]) 31, by decide +kernel⟩,
    ⟨bitAt (body 6 4 .a9llInter .mb [0, 0, 0, 0, 0, 0]) 31, by decide +kernel⟩,
    ⟨body 16 16 .a9llInter .mvCopy [0x80, 0, 0, 0, 0, 0], by decide +kernel⟩,
    ⟨body 16 16 .a9llInter .mvCopy [0, 0, 0, 0, 0, 0], by decide +kernel⟩,
    ⟨body 16 16 .a9llInter (.gate .sub3) [0, 0, 0, 0, 0, 0], .sub3, by decide +kernel⟩⟩

/-- The modes of `SUB2`, in a sequence and in a whole cell, and the eight literals of a cell two columns wide. -/
theorem test_witness_SymbolOperands_cells :
    (∃ s : State, s.sub2Next = true ∧ s.bytesReady .maskc 2 = true ∧ s.codeUnder .bit1 [false, false] = true) ∧
    (∃ s : State, s.sub2Next = true ∧ s.bytesReady .maskc 2 = true ∧ s.codeUnder .bit1 [false, true] = true) ∧
    (∃ s : State, s.sub2Next = true ∧ s.seq.stage = .sub .cells ∧ s.bytesReady .maskc 2 = true ∧
        s.codeUnder .bit1 [true, false] = true) ∧
    (∃ s : State, s.sub2Next = true ∧ s.bytesReady .maskc 0 = true ∧ s.codeUnder .bit1 [true, true] = true) ∧
    (∃ (s : State) (count : Nat), s.seq.stage = .sub .cells ∧ s.has [.dims] = true ∧ s.subAt.1 < s.fw ∧
        s.subAt.2 < s.fh ∧ s.tileFits (.within .cells) = false ∧
        count = min 4 (s.fw - s.subAt.1) * min 4 (s.fh - s.subAt.2) ∧ s.bytesReady .edgelit (2 * count) = true) :=
  ⟨⟨body 16 16 .a9llInter (.sub .sub2) [0, 0, 0, 0, 0, 0, 1, 2], by decide +kernel⟩,
    ⟨body 16 16 .a9llInter (.sub .sub2) [0x40, 0, 0, 0, 0, 0, 1, 2], by decide +kernel⟩,
    ⟨body 6 4 .a9llInter (.sub .cells) [0x80, 0, 0, 0, 0, 0, 1, 2], by decide +kernel⟩,
    ⟨body 16 16 .a9llInter (.sub .sub2) [0xC0, 0, 0, 0, 0, 0], by decide +kernel⟩,
    ⟨at_ (body 6 4 .a9llInter (.sub .cells) (List.replicate 22 0)) 0 1 0, 8, by decide +kernel⟩⟩

theorem test_witness_SymbolOperands_values :
    (∃ (s : State) (v : Nat), s.seq.stage = .w2Index ∧ s.bytesReady .idx (v / 255 + 1) = true ∧
        s.valueUnder s.idx v = true) ∧
    (∃ (s : State) (v idx : Nat), 1 ≤ idx ∧ s.seq.stage = .w2Sym idx ∧ s.bytesReady .run (v / 255 + 1) = true ∧
        s.valueUnder (match s.cfg.w2Layout.runFrom with | .idx => s.idx | .lit => s.lit) v = true) :=
  ⟨⟨body 4 4 .w2d1 .w2Index [0, 0, 0, 0, 0, 0, 0xFF, 0xFF, 0x03], 513, by decide +kernel⟩,
    ⟨runState [0xFF, 0x00], 255, 1, by decide +kernel⟩⟩

theorem test_witness_SymbolOperands_depth2_bytes :
    (∃ (s : State) (d : D2Coding), s.cfg.d2 = some d ∧ s.seq.stage = .d2Strip1 ∧ s.bytesReady .d2l 4 = true) ∧
    (∃ (s : State) (d : D2Coding), s.cfg.d2 = some d ∧ s.seq.stage = .d2Body .verb ∧ s.bytesReady .d2l 16 = true) ∧
    (∃ (s : State) (d : D2Coding), s.cfg.d2 = some d ∧ s.seq.stage = .d2Body .back) ∧
    (∃ (s : State) (d : D2Coding) (m : Nat) (c : BitCursor), s.cfg.d2 = some d ∧ s.seq.stage = .d2Body .strip2 ∧
        d.maskInBits = true ∧ s.bitsReady .d2b 8 = true ∧ s.d2b.read (s.mem s.d2b.mem) 8 = .ok (m, c)) ∧
    (∃ (s : State) (d : D2Coding), s.cfg.d2 = some d ∧ s.seq.stage = .d2Body .strip2 ∧ d.maskInBits = false ∧
        s.bytesReady .d2mask 1 = true) ∧
    (∃ (s : State) (d : D2Coding), s.cfg.d2 = some d ∧ s.seq.stage = .d2Tail ∧ s.has [.size, .ipos] = true ∧
        s.bytesReady .d2l (s.size - s.ipos) = true) :=
  ⟨⟨strips .d2Strip1 0 1 (List.replicate 10 0), D2Coding.sample, by decide +kernel⟩,
    ⟨strips (.d2Body .verb) 16 1 (List.replicate 22 0), D2Coding.sample, by decide +kernel⟩,
    ⟨strips (.d2Body .back) 16 1 (List.replicate 6 0), D2Coding.sample, by decide +kernel⟩,
    ⟨d2bAt (stripsBy bitMask (.d2Body .strip2) 16 1 [0, 0, 0, 0xA5, 0, 0]) 24, bitMask, 0xA5,
      { mem := .packet, start := 0, stop := 4, bitpos := 32 }, by decide +kernel⟩,
    ⟨strips (.d2Body .strip2) 16 1 (List.replicate 7 0), D2Coding.sample, by decide +kernel⟩,
    ⟨{ strips .d2Tail 16 1 (List.replicate 10 0) with size := 20 }, D2Coding.sample, by decide +kernel⟩⟩

theorem test_witness_SymbolOperands_depth2_distances :
    (∃ (s : State) (d : D2Coding) (strip : Strip) (j : Nat) (flag : Bool), s.cfg.d2 = some d ∧
        s.seq.stage = .d2Dist strip j ∧ s.codeUnder .d2b [flag] = true ∧
        (if flag then d.distIfSet else d.distIfClear) = .keep) ∧
    (∃ (s : State) (d : D2Coding) (strip : Strip) (j : Nat) (flag : Bool), s.cfg.d2 = some d ∧
        s.seq.stage = .d2Dist strip j ∧ s.codeUnder .d2b [flag] = true ∧
        (if flag then d.distIfSet else d.distIfClear) = .byte ∧ s.bytesReady .d2dist 1 = true) ∧
    (∃ (s : State) (d : D2Coding) (strip : Strip) (j : Nat) (flag : Bool), s.cfg.d2 = some d ∧
        s.seq.stage = .d2Dist strip j ∧ s.codeUnder .d2b [flag] = true ∧
        (if flag then d.distIfSet else d.distIfClear) = .half ∧ s.bytesReady .d2dist 2 = true) :=
  ⟨⟨strips (.d2Dist .first 0) 4 1 [0, 0, 0, 0, 0, 0], D2Coding.sample, .first, 0, false, by decide +kernel⟩,
    ⟨strips (.d2Dist .first 0) 4 1 [0x80, 0, 0, 0, 0, 0, 7], D2Coding.sample, .first, 0, true, by decide +kernel⟩,
    ⟨stripsBy halfDist (.d2Dist .first 0) 4 1 [0x80, 0, 0, 0, 0, 0, 7, 8], halfDist, .first, 0, true,
      by decide +kernel⟩⟩

theorem test_witness_SymbolOperands_depth2_codes :
    (∃ (s : State) (d : D2Coding) (strip : Strip) (j : Nat) (code : List Bool), s.cfg.d2 = some d ∧
        s.seq.stage = .d2Value strip j ∧ (kindCode d strip j).spells code .backref = true ∧
        s.codeUnder .d2b code = true) ∧
    (∃ (s : State) (d : D2Coding) (strip : Strip) (j : Nat) (code : List Bool), s.cfg.d2 = some d ∧
        s.seq.stage = .d2Value strip j ∧ (kindCode d strip j).spells code .xor = true ∧
        s.codeUnder .d2b code = true ∧ s.bytesReady .d2key 1 = true) ∧
    (∃ (s : State) (d : D2Coding) (strip : Strip) (j : Nat) (code : List Bool), s.cfg.d2 = some d ∧
        s.seq.stage = .d2Value strip j ∧ (kindCode d strip j).spells code .lit = true ∧
        s.codeUnder .d2b code = true ∧ s.bytesReady .d2l 2 = true) ∧
    (∃ (s : State) (d : D2Coding) (code : List Bool) (kind : StripKind), s.cfg.d2 = some d ∧ s.seq.stage = .d2Sel ∧
        d.selector.spells code (some kind) = true ∧ s.codeUnder .d2b code = true) ∧
    (∃ (s : State) (d : D2Coding) (code : List Bool), s.cfg.d2 = some d ∧ s.seq.stage = .d2Sel ∧
        d.selector.spells code none = true ∧ s.codeUnder .d2b code = true) :=
  ⟨⟨strips (.d2Value .first 1) 4 1 [0x80, 0, 0, 0, 0, 0], D2Coding.sample, .first, 1, [true, false],
      by decide +kernel⟩,
    ⟨strips (.d2Value (.later 0x80) 7) 4 1 [0x80, 0, 0, 0, 0, 0, 3], D2Coding.sample, .later 0x80, 7, [true],
      by decide +kernel⟩,
    ⟨strips (.d2Value (.later 0) 7) 4 1 [0, 0, 0, 0, 0, 0, 1, 2], D2Coding.sample, .later 0, 7, [],
      by decide +kernel⟩,
    ⟨d2bAt (strips .d2Sel 16 1 [0, 0, 0, 0x06, 0, 0]) 29, D2Coding.sample, [true, true, false], .strip2,
      by decide +kernel⟩,
    ⟨d2bAt (strips .d2Sel 16 1 [0, 0, 0, 0x07, 0, 0]) 29, D2Coding.sample, [true, true, true], by decide +kernel⟩⟩

theorem test_witness_DecodeEnds : ∃ s : State, s.inv = true ∧ s.status.phase = .busy := ⟨invState, by decide +kernel⟩

end Sys2Proof.Tests
end

namespace Sys2Proof.Machine

open Sys2Proof

/-! ## Reset -/

/-- TC0 is an admissible configuration (92_eei_decisions.md D41). -/
theorem Config.wf_tc0 : Config.tc0.wf = true := by
  have h0 : Config.tc0.delta0.length = 511 := List.length_replicate
  have h1 : Config.tc0.delta1.length = 511 := List.length_replicate
  simp only [Config.wf, h0, h1]
  rfl

/-- The reset state meets the invariant: no DECODE runs, and every store is empty. -/
theorem State.inv_reset : State.reset.inv = true := by
  have hcfg : State.reset.cfg.wf = true := Config.wf_tc0
  have hdt : State.reset.dt.length = 511 := List.length_replicate
  have hmem : State.reset.canonical = true := rfl
  have hstage : State.reset.stageOk = true := rfl
  simp only [State.inv, hcfg, hmem, hdt, hstage]
  rfl

/-- Settles O52: the values of R40 are the reset state's own, and the invariant is `State.inv_reset`. -/
theorem resetState : Obligations.ResetState :=
  ⟨rfl, rfl, rfl, State.inv_reset⟩

end Sys2Proof.Machine

namespace Sys2Proof

open Sys2Proof.Machine

/-! ## What the decoder answers -/

/-- Whatever value the computation answers has the property `P`. -/
structure Yields {ε α : Type} (a : Except ε α) (P : α → Prop) : Prop where
  apply : ∀ x, a = .ok x → P x

section

variable {ε α β : Type} {P : β → Prop} {a : Except ε α} {f : α → Except ε β}

theorem Yields.ok {x : β} (h : P x) : Yields (.ok x : Except ε β) P := by
  constructor
  rintro _ ⟨⟩
  exact h

theorem Yields.error {e : ε} : Yields (.error e : Except ε β) P := ⟨by simp⟩

/-- The rest of a sequence is looked at with what its first part yields. -/
theorem Yields.bind {Q : α → Prop} (ha : Yields a Q) (hf : ∀ x, Q x → Yields (f x) P) : Yields (a >>= f) P := by
  refine ⟨fun y hy => ?_⟩
  obtain ⟨x, hx, hy⟩ := Act.bind_eq_ok.mp hy
  exact (hf x (ha.apply x hx)).apply y hy

theorem Yields.value (hf : ∀ x, Yields (f x) P) : Yields (a >>= f) P :=
  .bind (Q := fun _ => True) ⟨fun _ _ => trivial⟩ fun x _ => hf x

theorem Yields.ite {c : Prop} [Decidable c] {b b' : Except ε β} (h : c → Yields b P) (h' : ¬c → Yields b' P) :
    Yields (if c then b else b') P := by
  split
  · exact h ‹_›
  · exact h' ‹_›

end

theorem takeBytes_yields (n : Nat) (bytes : List Byte) : Yields (takeBytes n bytes) fun x => x.1.length = n :=
  .ite (fun h => .ok (List.length_take_of_le h)) fun _ => .error

theorem takeU16s_yields (n : Nat) (bytes : List Byte) : Yields (takeU16s n bytes) fun x => x.1.length = n := by
  induction n generalizing bytes with
  | zero => exact .ok rfl
  | succ n ih => exact .value fun ⟨_, rest⟩ => .bind (ih rest) fun ⟨_, _⟩ h => .ok (congrArg (· + 1) h)

/-- The bits that a code tree takes spell the symbol that it answers (30_encoding.md R88). -/
theorem takeCode_yields {α : Type} [DecidableEq α] (tree : PrefixCode α) (bits : List Bool) :
    Yields (takeCode tree bits) fun x => tree.spells x.1 x.2.1 = true := by
  induction tree generalizing bits with
  | leaf a =>
    rw [takeCode]
    exact .ok (decide_eq_true rfl)
  | node zero one hz ho =>
    cases bits with
    | nil => rw [takeCode]; exact .error
    | cons b bits =>
      rw [takeCode]
      cases b
      · exact .bind (hz bits) fun ⟨_, _, _⟩ h => .ok h
      · exact .bind (ho bits) fun ⟨_, _, _⟩ h => .ok h

section

variable (st : Streams)

theorem withMask_yields {P : Instr → Prop} {mk : Half → Instr} (h : ∀ m, P (mk m)) : Yields (withMask st mk) P :=
  .value fun ⟨m, _⟩ => .ok (h m)

theorem decodeAlphaModern_yields {P : Instr → Prop} (bytes : List Byte)
    (h : ∀ raw mode pad, P (.hdrAlphaModern raw mode pad)) : Yields (decodeHeader.decodeAlphaModern bytes) P :=
  .value fun ⟨_, _⟩ => .value fun ⟨_, _⟩ => .value fun ⟨_, _⟩ => .ok (h _ _ _)

theorem decodeHeader_admits (k : HdrStep) (legacy ninePatch : Bool) (bytes : List Byte) :
    Yields (decodeHeader k legacy ninePatch bytes) fun i => (Format.hdr k legacy ninePatch).admits i = true := by
  cases k with
  | len => exact .ok rfl
  | magic => exact .value fun ⟨_, _⟩ => .value fun ⟨_, _⟩ => .ite (fun _ => .ok rfl) fun _ => .error
  | version => exact .value fun ⟨_, _⟩ => .ok rfl
  | rawType => exact .value fun ⟨_, _⟩ => .ok rfl
  | flagsAB => exact .value fun ⟨_, _⟩ => .value fun ⟨_, _⟩ => .ok rfl
  | dims => exact .value fun ⟨_, _⟩ => .value fun ⟨_, _⟩ => .ok rfl
  | flagsCD => exact .value fun ⟨_, _⟩ => .value fun ⟨_, _⟩ => .ok rfl
  | alphaPresent => exact .ok rfl
  | alpha =>
    cases legacy with
    | true => exact .value fun ⟨_, _⟩ => .ok rfl
    | false => exact decodeAlphaModern_yields bytes fun _ _ _ => rfl
  | anim =>
    exact .value fun ⟨_, _⟩ => .value fun ⟨_, _⟩ => .value fun ⟨_, _⟩ => .value fun ⟨_, _⟩ => .value fun ⟨_, _⟩ =>
      .ok rfl
  | first => exact .ok rfl
  | scale => exact decodeAlphaModern_yields bytes fun _ _ _ => rfl
  | size => exact .ok rfl
  | index =>
    cases ninePatch with
    | true => exact .value fun ⟨_, _⟩ => .value fun ⟨_, _⟩ => .ok rfl
    | false => exact .value fun ⟨_, _⟩ => .ok rfl
  | xval => exact .ok rfl
  | dataEnd => exact .ok rfl
  | qpGate => exact .ok rfl

theorem decodeDispatch_admits (extra animated first modeOk : Bool) (depth : Half) :
    Yields (decodeDispatch extra animated first modeOk depth) fun i =>
      (Format.dispatch extra animated first modeOk depth).admits i = true := by
  cases extra with
  | true => exact .ok rfl
  | false =>
    cases animated with
    | true => cases first <;> exact .ok rfl
    | false =>
      cases modeOk with
      | false => exact .ok rfl
      | true =>
        show Yields (if depth = 1 then .ok Instr.dispatchW2D1 else if depth = 2 then .ok .dispatchW2D2
          else .error Reject.badDepth) _
        exact .ite (fun h => .ok (beq_iff_eq.mpr h)) fun _ => .ite (fun h => .ok (beq_iff_eq.mpr h)) fun _ => .error

theorem decodeTable_admits (dynamic : Bool) :
    Yields (decodeTable dynamic st) fun i => (Format.table dynamic).admits i = true := by
  cases dynamic with
  | false => exact .ok rfl
  | true =>
    exact .bind (takeBytes_yields 512 st.tabc) fun ⟨_, rest⟩ hs => .bind (takeU16s_yields 512 rest) fun ⟨_, _⟩ hm =>
      .ok (Bool.and_eq_true_iff.mpr ⟨beq_iff_eq.mpr hs, beq_iff_eq.mpr hm⟩)

theorem decodeTile2_admits : Yields (decodeTile2 st) fun i => Format.tile2.admits i = true := by
  refine .value fun ⟨m, _⟩ => ?_
  dsimp only
  split
  · exact withMask_yields st fun _ => rfl
  · exact withMask_yields st fun _ => rfl
  · exact withMask_yields st fun _ => rfl
  · exact .ok rfl

theorem decodeSub2_admits : Yields (decodeSub2 st) fun i => Format.sub2.admits i = true := by
  refine .value fun ⟨m, _⟩ => ?_
  dsimp only
  split
  · exact withMask_yields st fun _ => rfl
  · exact withMask_yields st fun _ => rfl
  · exact withMask_yields st fun _ => rfl
  · exact .ok rfl

theorem decodeSub3_admits : Yields (decodeSub3 st) fun i => Format.sub3.admits i = true := by
  refine .value fun ⟨m, _⟩ => ?_
  dsimp only
  split
  · exact withMask_yields st fun _ => rfl
  · exact withMask_yields st fun _ => rfl
  · exact withMask_yields st fun _ => rfl
  · exact .ok rfl
  · exact withMask_yields st fun _ => rfl
  · exact .ok rfl
  · exact withMask_yields st fun _ => rfl
  · exact .ok rfl

theorem decodePixel_admits (maskBit : Bool) :
    Yields (decodePixel maskBit st) fun i => (Format.pixel maskBit).admits i = true := by
  cases maskBit with
  | true => exact .ok rfl
  | false =>
    refine .value fun ⟨c, _⟩ => .ite (fun _ => .value fun ⟨_, _⟩ => .ok rfl) fun _ => .value fun ⟨i, _⟩ => ?_
    dsimp only
    split <;> exact .ok rfl

theorem decodeMb16_admits : Yields (decodeMb16 st) fun i => Format.mb16.admits i = true :=
  .value fun ⟨_, _⟩ => .ite (fun _ => .ok rfl) fun _ => .value fun ⟨_, _⟩ => .ite (fun _ => .ok rfl) fun _ =>
    .value fun ⟨_, _⟩ => .ite (fun _ => .ok rfl) fun _ => .value fun ⟨_, _⟩ => .value fun ⟨_, _⟩ => .ok rfl

theorem decodeD2Value_admits (code : PrefixCode ValueKind) :
    Yields (decodeD2Value code st) fun i => (Format.d2Value code).admits i = true := by
  refine .bind (takeCode_yields code st.d2b) fun ⟨bits, kind, _⟩ h => ?_
  cases kind with
  | backref => exact .ok h
  | xor => exact .value fun ⟨_, _⟩ => .ok h
  | lit => exact .value fun ⟨_, _⟩ => .ok h

theorem decodeD2Dist_admits (ifClear ifSet : DistOp) :
    Yields (decodeD2Dist ifClear ifSet st) fun i => (Format.d2Dist ifClear ifSet).admits i = true := by
  refine .value fun ⟨f, _⟩ => ?_
  dsimp only
  split
  · rename_i h; exact .ok (beq_iff_eq.mpr h)
  · rename_i h; exact .value fun ⟨_, _⟩ => .ok (beq_iff_eq.mpr h)
  · rename_i h; exact .value fun ⟨_, _⟩ => .ok (beq_iff_eq.mpr h)

theorem decodeD2Body_admits (kind : StripKind) (maskInBits : Bool) :
    Yields (decodeD2Body kind maskInBits st) fun i => (Format.d2Body kind maskInBits).admits i = true := by
  cases kind with
  | verb => exact .bind (takeBytes_yields 16 st.d2l) fun ⟨_, _⟩ h => .ok (beq_iff_eq.mpr h)
  | back => exact .ok rfl
  | strip2 => cases maskInBits <;> exact .value fun ⟨_, _⟩ => .ok rfl

/-- The decoder answers instructions of its format only (30_encoding.md R88). -/
theorem decode_admits (f : Format) : Yields (decode f st) fun i => f.admits i = true := by
  cases f with
  | hdr k legacy ninePatch => exact decodeHeader_admits k legacy ninePatch st.header
  | dispatch extra animated first modeOk depth => exact decodeDispatch_admits extra animated first modeOk depth
  | table dynamic => exact decodeTable_admits st dynamic
  | tile2 => exact decodeTile2_admits st
  | pixel maskBit => exact decodePixel_admits st maskBit
  | mb16 => exact decodeMb16_admits st
  | mbEdge => exact .value fun ⟨_, _⟩ => .ite (fun _ => .ok rfl) fun _ => .ok rfl
  | mvCopy => exact .value fun ⟨_, _⟩ => .ite (fun _ => .ok rfl) fun _ => .ok rfl
  | gate => exact .ok rfl
  | sub3 => exact decodeSub3_admits st
  | sub2 => exact decodeSub2_admits st
  | litCell count => exact .bind (takeU16s_yields count st.edgelit) fun ⟨_, _⟩ h => .ok (beq_iff_eq.mpr h)
  | value => exact .value fun ⟨_, _⟩ => .ok rfl
  | w2Sym idx =>
    exact .ite (fun h => .value fun ⟨_, _⟩ => .ok (beq_iff_eq.mpr h)) fun h => .value fun ⟨_, _⟩ =>
      .ok (Bool.and_eq_true_iff.mpr ⟨beq_self_eq_true idx, bne_iff_ne.mpr h⟩)
  | d2Strip1 => exact .value fun ⟨_, _⟩ => .ok rfl
  | d2Value code => exact decodeD2Value_admits st code
  | d2Dist ifClear ifSet => exact decodeD2Dist_admits st ifClear ifSet
  | d2StripSel code =>
    refine .bind (takeCode_yields code st.d2b) fun ⟨bits, kind, _⟩ h => ?_
    cases kind with
    | some k => exact .ok h
    | none => exact .error
  | d2Body kind maskInBits => exact decodeD2Body_admits st kind maskInBits
  | d2Tail count => exact .bind (takeBytes_yields count st.d2l) fun ⟨_, _⟩ h => .ok (beq_iff_eq.mpr h)
  | command =>
    simp only [decode]
    split
    · exact .ok rfl
    · exact .ok rfl
    · exact .error

end

/-- The two host commands, which alone write `REF` or the packet without completing a DECODE. -/
def Instr.isCommand : Instr → Bool
  | .decode _ _ _ => true
  | .reset => true
  | _ => false

/-- Only the format of the host's commands admits RESET. -/
theorem Format.eq_command_of_reset {f : Format} (h : f.admits .reset = true) : f = .command := by
  cases f with
  | command => rfl
  | hdr k legacy ninePatch => cases k <;> cases legacy <;> cases h
  | dispatch extra animated first modeOk depth =>
    cases extra <;> cases animated <;> cases first <;> cases modeOk <;> cases h
  | table dynamic => cases dynamic <;> cases h
  | pixel maskBit => cases maskBit <;> cases h
  | d2Body kind maskInBits => cases kind <;> cases h
  | _ => cases h

end Sys2Proof

namespace Sys2Proof.Machine

open Sys2Proof

/-! ## What the rules of a DECODE leave alone

A rule between the DECODE command and completion writes working registers, `F`, `SEQ` and `HDR` only.  `State.outer` collects
everything else; `Act.Keeps s a` says that the computation `a` answers no state that differs from `s` there, whatever `s`
is. -/

/-- The items that no rule of a running DECODE writes: `CFG`, `STATUS`, `REF`, `OUT`, and what the host holds. -/
structure Outer where
  cfg : Config
  status : Status
  ref : RefFrame
  out : OutDesc
  pkt : Memory
  len : Nat
  stride : Nat
  cap : Nat
  outBuf : Memory
  queue : List HostCmd
  frees : Nat

/-- Those items of a state. -/
def State.outer (s : State) : Outer :=
  { cfg := s.cfg, status := s.status, ref := s.ref, out := s.out, pkt := s.pkt, len := s.len, stride := s.stride,
    cap := s.cap, outBuf := s.outBuf, queue := s.queue, frees := s.frees }

/-- The computation answers only states with the outer items of `s`. -/
structure Act.Keeps (s : State) (a : Act State) : Prop where
  outer_eq : ∀ t, a = .ok t → t.outer = s.outer

section

variable {α : Type} {s t : State}

theorem Act.Keeps.ok (h : t.outer = s.outer) : Act.Keeps s (.ok t) := by
  constructor
  rintro _ ⟨⟩
  exact h

theorem Act.Keeps.error {e : Stop} : Act.Keeps s (.error e) := ⟨by simp⟩

/-- The computation may be looked at from any state with the same outer items. -/
theorem Act.Keeps.of_outer {a : Act State} (ha : Act.Keeps t a) (h : t.outer = s.outer) : Act.Keeps s a :=
  ⟨fun u hu => (ha.outer_eq u hu).trans h⟩

/-- A part that computes a value leaves the state to the rest of the rule. -/
theorem Act.Keeps.value_of {a : Act α} {f : α → Act State} (h : ∀ x, a = .ok x → Act.Keeps s (f x)) :
    Act.Keeps s (a >>= f) := by
  refine ⟨fun t ht => ?_⟩
  obtain ⟨x, ha, hx⟩ := Act.bind_eq_ok.mp ht
  exact (h x ha).outer_eq t hx

theorem Act.Keeps.value {a : Act α} {f : α → Act State} (h : ∀ x, Act.Keeps s (f x)) : Act.Keeps s (a >>= f) :=
  .value_of fun x _ => h x

/-- A part that answers a state hands it to the next one. -/
theorem Act.Keeps.seq {a : Act State} {f : State → Act State} (ha : Act.Keeps s a)
    (hf : ∀ t, Act.Keeps t (f t)) : Act.Keeps s (a >>= f) :=
  .value_of fun t ht => .of_outer (hf t) (ha.outer_eq t ht)

theorem Act.Keeps.ite {c : Prop} [Decidable c] {a b : Act State} (ha : Act.Keeps s a) (hb : Act.Keeps s b) :
    Act.Keeps s (if c then a else b) := by
  split <;> assumption

/-- A rule that keeps the outer items ends in a state with the same ones, or in a raised error. -/
theorem Act.Keeps.finish_next {a : Act State} (ha : Act.Keeps s a) (h : finish s a = .next t) :
    t.outer = s.outer ∨ ∃ e, t = s.fail e := by
  rcases finish_eq_next.mp h with ht | ⟨e, -, he⟩
  · exact .inl (ha.outer_eq t ht)
  · exact .inr ⟨e, he⟩

end

/-! ### Shared operations -/

section

variable (s : State)

@[simp] theorem State.outer_setHdr (r : Reg) (h : Header) : (s.setHdr r h).outer = s.outer := rfl

@[simp] theorem State.outer_enterUnit (u : SeqUnit) (f : Pixels) : (s.enterUnit u f).outer = s.outer := rfl

@[simp] theorem State.outer_setBitCur (c : BitCursor) (id : BitCur) : (s.setBitCur c id).outer = s.outer := by
  cases id <;> rfl

@[simp] theorem State.outer_setByteCur (c : ByteCursor) (id : ByteCur) : (s.setByteCur c id).outer = s.outer := by
  cases id
  case run => simp only [State.setByteCur]; split <;> rfl
  all_goals rfl

theorem State.skipBits_keeps (id : BitCur) (n : Nat) : Act.Keeps s (s.skipBits id n) := by
  refine ⟨fun t ht => ?_⟩
  obtain ⟨⟨v, u⟩, hu, ⟨⟩⟩ := Act.bind_eq_ok.mp ht
  obtain ⟨c, -, hc⟩ := Act.bind_eq_ok.mp hu
  obtain ⟨⟨w, c'⟩, -, ⟨⟩⟩ := Act.bind_eq_ok.mp hc
  exact s.outer_setBitCur c' id

theorem State.skipBytes_keeps (id : ByteCur) (n : Nat) : Act.Keeps s (s.skipBytes id n) := by
  refine ⟨fun t ht => ?_⟩
  obtain ⟨⟨v, u⟩, hu, ⟨⟩⟩ := Act.bind_eq_ok.mp ht
  obtain ⟨c, -, hc⟩ := Act.bind_eq_ok.mp hu
  obtain ⟨⟨w, c'⟩, -, ⟨⟩⟩ := Act.bind_eq_ok.mp hc
  exact s.outer_setByteCur c' id

theorem State.putPixel_keeps (x y : Nat) (v : Half) : Act.Keeps s (s.putPixel x y v) :=
  .value fun ⟨_, _⟩ => .ite (.ok rfl) .error

theorem State.fillRect_keeps (x0 y0 w h : Nat) (f : Nat → Nat → Half) : Act.Keeps s (s.fillRect x0 y0 w h f) :=
  .value fun ⟨_, _⟩ => .ite (.ok rfl) .error

theorem State.copyRef_keeps (x0 y0 n : Nat) (dx dy : Int) : Act.Keeps s (s.copyRef x0 y0 n dx dy) :=
  .value fun _ => s.fillRect_keeps ..

theorem State.putIbuf_keeps (a : Nat) (b : Byte) : Act.Keeps s (s.putIbuf a b) :=
  .value fun _ => .value fun _ => .ite (.ok rfl) .error

theorem State.putIbufBytes_keeps (a : Nat) (bs : List Byte) : Act.Keeps s (s.putIbufBytes a bs) := by
  induction bs generalizing s a with
  | nil => exact .ok rfl
  | cons b bs ih => exact .seq (s.putIbuf_keeps a b) fun t => ih t (a + 1)

theorem State.copyBack_keeps (dist a n : Nat) : Act.Keeps s (s.copyBack dist a n) := by
  induction n generalizing s a with
  | zero => exact .ok rfl
  | succ n ih => exact .value fun b => .seq (s.putIbuf_keeps a b) fun t => ih t (a + 1)

theorem State.appendIbuf_keeps (bs : List Byte) : Act.Keeps s (s.appendIbuf bs) :=
  .value fun _ => .seq (s.putIbufBytes_keeps ..) fun _ => .ok rfl

theorem State.appendBack_keeps (n : Nat) : Act.Keeps s (s.appendBack n) :=
  .value fun ⟨_, _⟩ => .seq (s.copyBack_keeps ..) fun _ => .ok rfl

/-! ### The sequencer and the reader sets -/

theorem State.hdrDone_keeps (k : HdrStep) : Act.Keeps s (s.hdrDone k) := .value fun _ => .ok rfl

/-- Writing header fields and going on to the next step. -/
theorem State.setHdr_hdrDone_keeps (r : Reg) (h : Header) (k : HdrStep) : Act.Keeps s ((s.setHdr r h).hdrDone k) :=
  .of_outer (State.hdrDone_keeps _ k) (s.outer_setHdr r h)

theorem State.nextTile_keeps : Act.Keeps s s.nextTile := .value fun ⟨_, _⟩ => .ite (.ok rfl) (.ok rfl)

theorem State.nextMb_keeps : Act.Keeps s s.nextMb := .value fun ⟨_, _⟩ => .ite (.ok rfl) (.ok rfl)

theorem State.nextSub_keeps (k : SubKind) : Act.Keeps s (s.nextSub k) := by
  refine .value fun ⟨w, h⟩ => ?_
  cases hk : subAfter k w h s.seq.t s.seq.s with
  | some i => simp only [hk]; exact .ok rfl
  | none => simp only [hk]; exact s.nextMb_keeps

theorem State.tileDone_keeps (k : TileKind) : Act.Keeps s (s.tileDone k) := by
  cases k with
  | frame => exact s.nextTile_keeps
  | within k => exact s.nextSub_keeps k

theorem State.pixelDone_keeps (k : TileKind) : Act.Keeps s (s.pixelDone k) := .ite (.ok rfl) (s.tileDone_keeps k)

theorem State.buildA9LL_keeps : Act.Keeps s s.buildA9LL :=
  .value fun _ => .value fun _ => .value fun _ => .value fun _ => .ok rfl

theorem State.buildW2D1_keeps (mem : CurMem) (b e : Nat) : Act.Keeps s (s.buildW2D1 mem b e) := by
  refine .value fun _ => ?_
  split
  · exact .error
  · exact .value fun _ => .ok rfl

theorem State.buildW2D2_outer {d : D2Coding} {n : Nat} {t : State} (h : s.buildW2D2 d = .ok (n, t)) :
    t.outer = s.outer := by
  obtain ⟨hs, -, h⟩ := Act.bind_eq_ok.mp h
  obtain ⟨de, -, h⟩ := Act.bind_eq_ok.mp h
  split at h
  · exact nomatch h
  · obtain ⟨-, -, ⟨⟩⟩ := Act.bind_eq_ok.mp h
    rfl

theorem State.w2Next_keeps : Act.Keeps s s.w2Next :=
  .value fun _ => .value fun _ => .ite (.ok rfl) (.value fun _ => .ite (.ok rfl) (.ok rfl))

theorem State.startW2D1_keeps (mem : CurMem) (b e : Nat) : Act.Keeps s (s.startW2D1 mem b e) :=
  .seq (s.buildW2D1_keeps mem b e) fun _ => .value fun ⟨_, _⟩ => .of_outer (State.w2Next_keeps _) rfl

theorem State.d2Next_keeps : Act.Keeps s s.d2Next :=
  .value fun _ => .value fun _ => .ite (.ok rfl) (.ite (.ok rfl) (s.startW2D1_keeps ..))

theorem State.valueDone_keeps (strip : Strip) (j : Nat) : Act.Keeps s (s.valueDone strip j) :=
  .ite (.ok rfl) s.d2Next_keeps

/-! ### Tiles, pixels and macroblocks -/

theorem State.openTile_keeps (pr : Predictor) (k : TileKind) (mask : Half) : Act.Keeps s (s.openTile pr k mask) :=
  .seq (s.skipBytes_keeps ..) fun _ => .ok rfl

theorem State.edgeTile_keeps (k : TileKind) : Act.Keeps s (s.edgeTile k) :=
  .value fun ⟨_, _⟩ => .ite (.seq (.ok rfl) fun t => t.tileDone_keeps k)
    (.seq (s.fillRect_keeps ..) fun t => t.tileDone_keeps k)

theorem State.residual_keeps (c i : Nat) : Act.Keeps s (s.residual c i) :=
  .value fun ⟨_, _, _, k⟩ => .seq (s.skipBits_keeps ..) fun t => .seq (t.skipBits_keeps ..) fun u =>
    .value fun _ => .value fun _ => .seq (u.putPixel_keeps ..) fun v => v.pixelDone_keeps k

theorem State.dirTile2_keeps (d : Dir) (mask : Half) : Act.Keeps s (s.dirTile2 d mask) :=
  .value fun _ => .seq (s.skipBits_keeps ..) fun t => t.openTile_keeps ..

theorem State.tableDone_keeps (dt : List Half) : Act.Keeps s (s.tableDone dt) := .value fun ⟨_, _⟩ => .ok rfl

theorem State.maskedSub3_keeps (pr : Predictor) (mask : Half) : Act.Keeps s (s.maskedSub3 pr mask) :=
  .value fun _ => .seq (s.skipBits_keeps ..) fun t => t.openTile_keeps ..

theorem State.dirSub2_keeps (d : Dir) (mask : Half) : Act.Keeps s (s.dirSub2 d mask) :=
  .value fun _ => .seq (s.skipBits_keeps ..) fun t => t.openTile_keeps ..

/-! ### Depth 1 -/

theorem State.emit_keeps (v : Half) : Act.Keeps s (s.emit v) :=
  .value fun _ => .value fun _ => .value fun ⟨_, _⟩ => .ite (.seq (s.putPixel_keeps ..) fun _ => .ok rfl) (.ok rfl)

theorem State.emitPair_keeps (q : Word) : Act.Keeps s (s.emitPair q) :=
  .seq (s.emit_keeps _) fun t => t.emit_keeps _

theorem State.emitPairs_keeps (q : Word) (n : Nat) : Act.Keeps s (State.emitPairs q n s) := by
  induction n generalizing s with
  | zero => exact .ok rfl
  | succ n ih => exact .seq (s.emitPair_keeps q) ih

end

/-! ### The meanings -/

/-- The outcome of a rule that started in `s` and keeps its outer items. -/
def KeepsOuter (s : State) (o : Host.Outcome State Fault Refusal) : Prop :=
  ∃ a : Act State, o = finish s a ∧ Act.Keeps s a

theorem KeepsOuter.finish {s : State} {a : Act State} (h : Act.Keeps s a) : KeepsOuter s (finish s a) := ⟨a, rfl, h⟩

section

variable (s : State)

theorem State.readAlphaModern_keeps (raw : Half) (mode : Byte) : Act.Keeps s (s.readAlphaModern raw mode) :=
  .value fun _ => .value fun _ => .value fun _ => s.setHdr_hdrDone_keeps _ _ _

theorem State.scaleAlphaModern_keeps : Act.Keeps s s.scaleAlphaModern :=
  .value fun _ => .ite (.value fun _ => s.setHdr_hdrDone_keeps _ _ _) (.value fun _ => s.setHdr_hdrDone_keeps _ _ _)

theorem execHdrAlphaModern_keeps (raw : Half) (mode pad : Byte) :
    KeepsOuter s (execHdrAlphaModern raw mode pad s) := by
  refine .finish ?_
  split
  · exact s.readAlphaModern_keeps raw mode
  · exact s.scaleAlphaModern_keeps
  · exact .error

theorem execGate_keeps : KeepsOuter s (execGate s) := by
  refine .finish ?_
  split
  · exact .value fun _ => .value fun _ => .ok rfl
  · exact .error

theorem execD2Dist_keeps (flag : Bool) (update : DistUpdate) : KeepsOuter s (execD2Dist flag update s) := by
  refine .finish ?_
  split
  · refine .value fun d => .seq (s.skipBits_keeps _ _) fun t => ?_
    dsimp only
    split
    · exact .seq (.ok rfl) fun _ => .ok rfl
    · exact .seq (t.skipBytes_keeps _ _) fun _ => .seq (.ok rfl) fun _ => .ok rfl
    · exact .seq (t.skipBytes_keeps _ _) fun _ => .seq (.ok rfl) fun _ => .ok rfl
    · exact .error
  · exact .error

theorem execD2Value_keeps (code : List Bool) (payload : D2Payload) : KeepsOuter s (execD2Value code payload s) := by
  refine .finish ?_
  split
  · refine .value fun d => .seq (s.skipBits_keeps _ _) fun t => ?_
    cases payload with
    | backref => exact .value fun _ => .seq (t.appendBack_keeps _) fun u => u.valueDone_keeps _ _
    | xor key =>
      refine .value fun _ => .seq (t.skipBytes_keeps _ _) fun u => ?_
      split
      · exact .error
      · exact .value fun _ => .seq (u.appendIbuf_keeps _) fun v => v.valueDone_keeps _ _
    | lit v =>
      exact .value fun _ => .seq (t.skipBytes_keeps _ _) fun u => .seq (u.appendIbuf_keeps _) fun w =>
        w.valueDone_keeps _ _
  · exact .error

theorem execDispatchW2D2_keeps : KeepsOuter s (execDispatchW2D2 s) := by
  unfold execDispatchW2D2
  refine .finish (.value fun _ => .value fun d => .value_of ?_)
  rintro ⟨size, t⟩ ht
  dsimp -zeta only
  refine .value fun _ => ?_
  extract_lets s1 s2 s3 s4
  have h4 : s4.outer = s3.outer := rfl
  clear_value s4
  have h3 : s3.outer = s2.outer := rfl
  clear_value s3
  have h2 : s2.outer = t.outer := rfl
  have ht : t.outer = s.outer := State.buildW2D2_outer (s.enterUnit .w2d2 []) ht
  exact .of_outer (t := s4) (.ite (.ok rfl) s4.d2Next_keeps) (by rw [h4, h3, h2, ht])

/-- A mode of `n` bits, then the edge tile. -/
theorem State.edgeMode_keeps (k : TileKind) (n : Nat) :
    Act.Keeps s (do let s ← s.skipBits .bit1 n; s.edgeTile k) :=
  .seq (s.skipBits_keeps _ _) fun t => t.edgeTile_keeps k

end

/-- Every meaning but those of the host's commands keeps the outer items, or raises an error. -/
theorem exec_keeps (i : Instr) (s : State) (hi : i.isCommand = false) : KeepsOuter s (exec i s) := by
  cases i with
  | hdrLen => exact .finish (.value fun _ => .value fun _ => s.hdrDone_keeps _)
  | hdrMagic => exact .finish (.value fun _ => .value fun _ => .value fun _ => s.hdrDone_keeps _)
  | hdrVersion v => exact .finish (.value fun _ => s.setHdr_hdrDone_keeps _ _ _)
  | hdrRawType v => exact .finish (.value fun _ => .value fun _ => s.setHdr_hdrDone_keeps _ _ _)
  | hdrFlagsAB a b => exact .finish (.value fun _ => .value fun _ => s.setHdr_hdrDone_keeps _ _ _)
  | hdrDims w h => exact .finish (.value fun _ => .value fun _ => s.setHdr_hdrDone_keeps _ _ _)
  | hdrFlagsCD c d => exact .finish (.value fun _ => .value fun _ => s.setHdr_hdrDone_keeps _ _ _)
  | hdrAlphaPresent => exact .finish (.value fun _ => .value fun _ => s.setHdr_hdrDone_keeps _ _ _)
  | hdrAlphaLegacy raw =>
    exact .finish (.value fun _ => .value fun _ => .value fun _ => .value fun _ =>
      .of_outer (State.setHdr_hdrDone_keeps _ _ _ _) (s.outer_setHdr .alphaRaw _))
  | hdrAlphaModern raw mode pad => exact execHdrAlphaModern_keeps s raw mode pad
  | hdrAnim total current delay noRepeat pad =>
    exact .finish (.value fun _ => .value fun _ => .value fun _ => .value fun _ => s.setHdr_hdrDone_keeps _ _ _)
  | hdrIndex pad count =>
    exact .finish (.value fun _ => .value fun _ => .value fun _ => .value fun _ => s.setHdr_hdrDone_keeps _ _ _)
  | hdrSize => exact .finish (.value fun _ => .value fun _ => s.setHdr_hdrDone_keeps _ _ _)
  | hdrXval => exact .finish (.value fun _ => .value fun _ => .value fun _ => .value fun _ => s.hdrDone_keeps _)
  | hdrDataEnd =>
    exact .finish (.value fun _ => .value fun _ => .ite (.value fun _ => s.setHdr_hdrDone_keeps _ _ _)
      (.value fun _ => s.setHdr_hdrDone_keeps _ _ _))
  | hdrQpGate => exact .finish (.value fun _ => .value fun _ => s.setHdr_hdrDone_keeps _ _ _)
  | hdrFirst =>
    exact .finish (.value fun _ => .value fun _ => .ite (.value fun _ => s.setHdr_hdrDone_keeps _ _ _)
      (s.hdrDone_keeps _))
  | tile2Dir0 mask => exact .finish (s.dirTile2_keeps _ mask)
  | tile2Dir1 mask => exact .finish (s.dirTile2_keeps _ mask)
  | tile2Dir2 mask => exact .finish (s.dirTile2_keeps _ mask)
  | tile2Edge => exact .finish (.value fun _ => s.edgeMode_keeps _ _)
  | pixCopy =>
    exact .finish (.value fun ⟨_, _, _, k⟩ => .value fun _ => .seq (s.putPixel_keeps _ _ _) fun t => t.pixelDone_keeps k)
  | pixRes0 i => exact .finish (s.residual_keeps _ _)
  | pixRes1 i => exact .finish (s.residual_keeps _ _)
  | pixRes2 i => exact .finish (s.residual_keeps _ _)
  | pixRes3 i => exact .finish (s.residual_keeps _ _)
  | pixRes4 i => exact .finish (s.residual_keeps _ _)
  | pixRes5 i => exact .finish (s.residual_keeps _ _)
  | pixRes6 i => exact .finish (s.residual_keeps _ _)
  | pixLit lit =>
    exact .finish (.value fun ⟨_, _, _, k⟩ => .seq (s.skipBits_keeps _ _) fun t => .seq (t.skipBytes_keeps _ _) fun u =>
      .seq (u.putPixel_keeps _ _ _) fun v => v.pixelDone_keeps k)
  | dtab signs mags =>
    exact .finish (.value fun _ => .value fun _ => .value fun _ => .seq (s.skipBytes_keeps _ _) fun t =>
      .seq (t.skipBytes_keeps _ _) fun u => u.tableDone_keeps _)
  | dtConst => exact .finish (.value fun _ => .value fun _ => .value fun _ => s.tableDone_keeps _)
  | mbRefCopy =>
    exact .finish (.value fun ⟨_, _⟩ => .seq (s.skipBits_keeps _ _) fun t => .seq (t.copyRef_keeps _ _ _ _ _) fun u =>
      u.nextMb_keeps)
  | mbMvZero => exact .finish (.value fun _ => .seq (s.skipBits_keeps _ _) fun _ => .ok rfl)
  | mbMv a b =>
    exact .finish (.value fun ⟨_, _⟩ => .value fun ⟨_, _⟩ => .seq (s.skipBits_keeps _ _) fun t =>
      .seq (t.skipBits_keeps _ _) fun u => .seq (u.skipBits_keeps _ _) fun v =>
        .ite (.ok rfl) (.of_outer (State.nextMb_keeps _) rfl))
  | mbMcCopy =>
    exact .finish (.value fun ⟨_, _⟩ => .value fun _ => .seq (s.skipBits_keeps _ _) fun t =>
      .seq (t.copyRef_keeps _ _ _ _ _) fun u => u.nextMb_keeps)
  | mbMcSub => exact .finish (.value fun _ => .seq (s.skipBits_keeps _ _) fun _ => .ok rfl)
  | mbSub2 => exact .finish (.value fun _ => .seq (s.skipBits_keeps _ _) fun _ => .ok rfl)
  | gate => exact execGate_keeps s
  | s3Dir0 mask => exact .finish (s.maskedSub3_keeps _ mask)
  | s3Dir1 mask => exact .finish (s.maskedSub3_keeps _ mask)
  | s3Dir2 mask => exact .finish (s.maskedSub3_keeps _ mask)
  | s3Edge => exact .finish (.value fun _ => s.edgeMode_keeps _ _)
  | s3ResRef mask => exact .finish (s.maskedSub3_keeps _ mask)
  | s3CopyRef =>
    exact .finish (.value fun _ => .seq (s.skipBits_keeps _ _) fun t => .value fun ⟨_, _⟩ =>
      .seq (t.copyRef_keeps _ _ _ _ _) fun u => u.nextSub_keeps _)
  | s3ResMv mask => exact .finish (s.maskedSub3_keeps _ mask)
  | s3CopyMv =>
    exact .finish (.value fun _ => .seq (s.skipBits_keeps _ _) fun t => .value fun ⟨_, _⟩ => .value fun ⟨_, _⟩ =>
      .value fun _ => .ite (.seq (t.copyRef_keeps _ _ _ _ _) fun u => u.nextSub_keeps _)
        (.seq (.ok rfl) fun u => u.nextSub_keeps _))
  | s2Dir0 mask => exact .finish (s.dirSub2_keeps _ mask)
  | s2Dir1 mask => exact .finish (s.dirSub2_keeps _ mask)
  | s2Dir2 mask => exact .finish (s.dirSub2_keeps _ mask)
  | s2Edge => exact .finish (.value fun _ => s.edgeMode_keeps _ _)
  | embSkip1 => exact .finish (.value fun _ => .value fun _ => .error)
  | embCells => exact .finish (.value fun _ => .seq (s.skipBits_keeps _ _) fun _ => .ok rfl)
  | embLitCell lits =>
    exact .finish (.value fun ⟨⟨_, _⟩, _, _⟩ => .value fun _ => .seq (s.skipBytes_keeps _ _) fun t =>
      .seq (t.fillRect_keeps _ _ _ _ _) fun u => u.nextSub_keeps _)
  | value v => exact .finish (.value fun _ => .seq (s.skipBytes_keeps _ _) fun _ => .ok rfl)
  | w2Lit pair =>
    exact .finish (.value fun _ => .seq (s.skipBytes_keeps _ _) fun t => .seq (t.emitPair_keeps pair) fun u =>
      u.w2Next_keeps)
  | w2Run idx run =>
    exact .finish (.value fun _ => .value fun _ => .value fun _ => .value fun _ =>
      .of_outer (.seq (State.skipBytes_keeps _ _ _) fun _ => .value fun _ => .value fun _ =>
        .of_outer (.seq (State.emitPairs_keeps _ _ _) fun u => u.w2Next_keeps) rfl) rfl)
  | d2Strip1 q =>
    exact .finish (.value fun _ => .seq (s.skipBytes_keeps _ _) fun t => .seq (t.putIbufBytes_keeps _ _) fun _ => .ok rfl)
  | d2Value code payload => exact execD2Value_keeps s code payload
  | d2Dist flag update => exact execD2Dist_keeps s flag update
  | d2StripSel code kind =>
    exact .finish (.value fun _ => .value fun _ => .seq (s.skipBits_keeps _ _) fun _ => .ok rfl)
  | d2Verb bytes =>
    exact .finish (.value fun _ => .value fun _ => .seq (s.skipBytes_keeps _ _) fun t =>
      .seq (t.appendIbuf_keeps _) fun u => u.d2Next_keeps)
  | d2Back => exact .finish (.value fun _ => .seq (s.appendBack_keeps _) fun t => t.d2Next_keeps)
  | d2Strip2 fromBits mask =>
    exact .finish (.value fun _ => .value fun _ => .ite (.seq (s.skipBits_keeps _ _) fun _ => .ok rfl)
      (.seq (s.skipBytes_keeps _ _) fun _ => .ok rfl))
  | d2Tail bytes =>
    exact .finish (.value fun _ => .value fun _ => .value fun _ => .value fun _ => .seq (s.skipBytes_keeps _ _) fun t =>
      .seq (t.appendIbuf_keeps _) fun u => u.d2Next_keeps)
  | dispatchIntra =>
    exact .finish (.value fun _ => .value fun ⟨_, _⟩ => .ite .error
      (.of_outer (.seq (State.buildA9LL_keeps _) fun _ => .ok rfl) (s.outer_enterUnit .a9llIntra [])))
  | dispatchInter =>
    exact .finish (.value fun _ => .value fun ⟨_, _⟩ => .value fun _ =>
      .of_outer (.seq (State.buildA9LL_keeps _) fun _ => .ok rfl) (s.outer_enterUnit .a9llInter _))
  | dispatchW2D1 =>
    exact .finish (.value fun _ => .value fun _ =>
      .of_outer (State.startW2D1_keeps _ _ _ _) (s.outer_enterUnit .w2d1 []))
  | dispatchW2D2 => exact execDispatchW2D2_keeps s
  | dispatchExtra => exact .finish (.value fun _ => .error)
  | dispatchMode => exact .finish (.value fun _ => .error)
  | decode packet stride cap => exact absurd hi (by simp [Instr.isCommand])
  | reset => exact absurd hi (by simp [Instr.isCommand])

/-! ### What a step does to the outer items -/

section

variable {s t : State}

/-- A rule that keeps the outer items keeps `CFG` and `REF`, whether or not it raises an error. -/
theorem Act.Keeps.finish_cfg_ref {a : Act State} (ha : Act.Keeps s a) (h : finish s a = .next t) :
    t.cfg = s.cfg ∧ t.ref = s.ref := by
  rcases ha.finish_next h with ht | ⟨e, rfl⟩
  · exact ⟨congrArg Outer.cfg ht, congrArg Outer.ref ht⟩
  · exact ⟨rfl, rfl⟩

theorem execDecode_next {packet : List Byte} {stride cap : Nat} (h : execDecode packet stride cap s = .next t) :
    t.cfg = s.cfg ∧ t.ref = s.ref := by
  unfold execDecode at h
  split at h
  · cases h
  · split at h
    · cases h
    · cases h
      exact ⟨rfl, rfl⟩

theorem execReset_next (h : execReset s = .next t) : t.cfg = s.cfg ∧ t.ref = State.reset.ref := by
  unfold execReset at h
  split at h
  · cases h
  · cases h
    exact ⟨rfl, rfl⟩

/-- Every meaning keeps `CFG`, and every meaning but RESET keeps `REF`. -/
theorem exec_next {i : Instr} (h : exec i s = .next t) :
    t.cfg = s.cfg ∧ (t.ref = s.ref ∨ i = .reset ∧ t.ref = State.reset.ref) := by
  cases hi : i.isCommand with
  | false =>
    obtain ⟨a, ha, hk⟩ := exec_keeps i s hi
    obtain ⟨hc, hr⟩ := hk.finish_cfg_ref (ha ▸ h)
    exact ⟨hc, .inl hr⟩
  | true =>
    cases i with
    | decode packet stride cap =>
      obtain ⟨hc, hr⟩ := execDecode_next h
      exact ⟨hc, .inl hr⟩
    | reset =>
      obtain ⟨hc, hr⟩ := execReset_next h
      exact ⟨hc, .inr ⟨rfl, hr⟩⟩
    | _ => cases hi

theorem State.orchestrate_keeps (s : State) : Act.Keeps s s.orchestrate :=
  .value fun ⟨_, _⟩ => .value fun _ => .value fun _ => .value fun _ => .ite .error (.ok rfl)

theorem State.partialFrame_keeps (s : State) : Act.Keeps s s.partialFrame := by
  refine .value fun ⟨w, h⟩ => .value fun _ => ?_
  split
  · exact .error
  · split
    · exact .error
    · exact .seq (s.fillRect_keeps _ _ _ _ _) fun _ => .ok rfl

/-- A completed DECODE (46_orchestrator.md R254, R255). -/
theorem State.complete_eq_ok (h : s.complete = .ok t) :
    t.cfg = s.cfg ∧ t.status = { phase := .done, code := .ok } ∧ t.ref.pix = t.frame ∧
      t.frame = s.finalFrame s.fw s.fh := by
  obtain ⟨⟨w, h'⟩, hd, h⟩ := Act.bind_eq_ok.mp h
  obtain ⟨-, hd⟩ := State.rd_eq_ok.mp hd
  obtain ⟨-, -, h⟩ := Act.bind_eq_ok.mp h
  obtain ⟨-, -, h⟩ := Act.bind_eq_ok.mp h
  obtain ⟨-, -, h⟩ := Act.bind_eq_ok.mp h
  cases h
  cases hd
  exact ⟨rfl, rfl, rfl, rfl⟩

theorem State.dispatchFormat_yields (s : State) : Yields s.dispatchFormat fun f => f ≠ .command :=
  .value fun _ => .ite (fun _ => .value fun _ => .ok nofun) fun _ => .value fun _ => .ok nofun

theorem State.mbFormat_yields (s : State) : Yields s.mbFormat fun f => f ≠ .command :=
  .value fun ⟨_, _⟩ => .ok (by split <;> nofun)

theorem State.cellFormat_yields (s : State) : Yields s.cellFormat fun f => f ≠ .command :=
  .value fun ⟨_, _⟩ => .ok (by split <;> nofun)

/-- While a DECODE runs, no host command is the next symbol. -/
theorem State.format_yields (hs : s.seq.stage ≠ .idle) : Yields s.format fun f => f ≠ .command := by
  unfold State.format
  cases h : s.seq.stage with
  | idle => exact absurd h hs
  | hdr k => exact .value fun _ => .ok nofun
  | dispatch => exact s.dispatchFormat_yields
  | table => exact .value fun _ => .ok nofun
  | mb => exact s.mbFormat_yields
  | sub k =>
    cases k with
    | sub3 => exact .ok nofun
    | sub2 => exact .ok nofun
    | cells => exact s.cellFormat_yields
  | pixel pr k => exact .value fun _ => .ok nofun
  | d2Value strip j => exact .value fun _ => .ok nofun
  | d2Dist strip j => exact .value fun _ => .ok nofun
  | d2Sel => exact .value fun _ => .ok nofun
  | d2Body kind => exact .value fun _ => .ok nofun
  | d2Tail => exact .value fun _ => .value fun _ => .ok nofun
  | orchestrate => exact .error
  | partialFrame => exact .error
  | complete => exact .error
  | _ => exact .ok nofun

/-- RESET is fetched only where an idle block takes it from the host's queue. -/
theorem State.fetch_reset (h : s.fetch = .ok .reset) : s.seq.stage = .idle ∧ s.queue.head? = some .reset := by
  obtain ⟨f, hf, h⟩ := Act.bind_eq_ok.mp h
  obtain ⟨st, hs, h⟩ := Act.bind_eq_ok.mp h
  cases hdec : decode f st with
  | error r => rw [hdec] at h; cases h
  | ok i =>
    rw [hdec] at h
    cases h
    obtain rfl := Format.eq_command_of_reset ((decode_admits st f).apply _ hdec)
    cases hs
    refine ⟨by_contra fun hidle => (State.format_yields hidle).apply _ hf rfl, ?_⟩
    simp only [decode] at hdec
    split at hdec
    · cases hdec
    · assumption
    · cases hdec

/-- A fetched instruction of a running block, or the end of a DECODE, keeps `CFG`; it keeps `REF` but for a RESET. -/
theorem State.runNext_next (h : s.runNext = .next t) :
    t.cfg = s.cfg ∧ (t.ref = s.ref ∨ s.seq.stage = .idle ∧ s.queue.head? = some .reset ∧ t.ref = State.reset.ref) := by
  unfold State.runNext at h
  split at h
  · rename_i i hi
    obtain ⟨hc, hr⟩ := exec_next h
    have hissue : s.issue.cfg = s.cfg ∧ s.issue.ref = s.ref := by
      unfold State.issue
      split <;> exact ⟨rfl, rfl⟩
    refine ⟨hc.trans hissue.1, hr.imp (·.trans hissue.2) ?_⟩
    rintro ⟨rfl, href⟩
    obtain ⟨hs, hq⟩ := State.fetch_reset hi
    exact ⟨hs, hq, href⟩
  · rename_i e he
    obtain ht | ⟨e', -, rfl⟩ := finish_eq_next.mp h
    · cases ht
    · exact ⟨rfl, .inl rfl⟩

/-- What a step does to `CFG` and `REF`: nothing, or it completes a DECODE, or it runs a RESET of an idle block. -/
theorem step_next (h : step s = .next t) :
    t.cfg = s.cfg ∧ (t.ref = s.ref ∨ s.seq.stage = .complete ∧ s.complete = .ok t ∨
      s.seq.stage = .idle ∧ s.queue.head? = some .reset ∧ t.ref = State.reset.ref) := by
  unfold step at h
  split at h
  · obtain ⟨hc, hr⟩ := s.orchestrate_keeps.finish_cfg_ref h
    exact ⟨hc, .inl hr⟩
  · obtain ⟨hc, hr⟩ := s.partialFrame_keeps.finish_cfg_ref h
    exact ⟨hc, .inl hr⟩
  · rename_i hs
    obtain ht | ⟨e, -, rfl⟩ := finish_eq_next.mp h
    · obtain ⟨hc, -⟩ := State.complete_eq_ok ht
      exact ⟨hc, .inr (.inl ⟨hs, ht⟩)⟩
    · exact ⟨rfl, .inl rfl⟩
  · split at h
    · cases h
      exact ⟨rfl, .inl rfl⟩
    · obtain ⟨hc, hr⟩ := State.runNext_next h
      exact ⟨hc, hr.imp_right .inr⟩
  · obtain ⟨hc, hr⟩ := State.runNext_next h
    exact ⟨hc, hr.imp_right .inr⟩

end

/-- Settles O56: every operation keeps `CFG` (`Act.Keeps`), and so does every step (`step_next`). -/
theorem configConstant : Obligations.ConfigConstant := by
  unfold Obligations.ConfigConstant
  intro s t h
  exact (step_next h).1

/-- Settles O57: of the steps that `step_next` allows, completion and RESET alone write `REF`. -/
theorem referenceChanges : Obligations.ReferenceChanges := by
  unfold Obligations.ReferenceChanges
  intro s t h hne
  obtain ⟨-, hr | ⟨hs, ht⟩ | ⟨hs, hq, hr⟩⟩ := step_next h
  · exact absurd hr hne
  · obtain ⟨-, hstatus, hpix, hframe⟩ := State.complete_eq_ok ht
    exact .inl ⟨hs, hstatus, hpix, fun hi => hframe.trans (State.finalFrame_plain hi)⟩
  · exact .inr ⟨hs, hq, congrArg RefFrame.valid hr⟩

end Sys2Proof.Machine

namespace Sys2Proof.Machine

open Sys2Proof

/-! ## Computations without a fault -/

/-- The computation stops with no fault, and whatever it answers has the property `Q`.  It may raise an error or refuse. -/
structure Act.Safe {α : Type} (a : Act α) (Q : α → Prop) : Prop where
  no_fault : ∀ f, a ≠ .error (.fault f)
  apply : ∀ x, a = .ok x → Q x

/-- The computation stops with no fault. -/
abbrev Act.Runs {α : Type} (a : Act α) : Prop := Act.Safe a fun _ => True

/-- The outcome is no fault. -/
def Faultless (o : Host.Outcome State Fault Refusal) : Prop := ∀ f, o ≠ .fault f

section

variable {α β : Type} {P : α → Prop} {Q : β → Prop} {a : Act α} {f : α → Act β}

theorem Act.Safe.ok {x : β} (h : Q x) : Act.Safe (.ok x) Q := ⟨nofun, by rintro _ ⟨⟩; exact h⟩

theorem Act.Safe.raise {e : Err} : Act.Safe (.error (.raise e)) Q := ⟨nofun, nofun⟩

theorem Act.Safe.refuse {r : Refusal} : Act.Safe (.error (.refuse r)) Q := ⟨nofun, nofun⟩

/-- An error that is no fault is none for any kind of answer. -/
theorem Act.Safe.of_error {e : Stop} (h : Act.Safe (.error e : Act α) P) : Act.Safe (.error e : Act β) Q :=
  ⟨fun f hf => h.no_fault f (by cases hf; rfl), nofun⟩

/-- A sequence is safe when its first part is, and the rest is from whatever the first part answers. -/
theorem Act.Safe.bind (ha : Act.Safe a P) (hf : ∀ x, P x → Act.Safe (f x) Q) : Act.Safe (a >>= f) Q := by
  cases a with
  | error e => exact ha.of_error
  | ok x => exact hf x (ha.apply x rfl)

/-- A first part whose answer is known. -/
theorem Act.Safe.run {x : α} (ha : a = .ok x) (hf : Act.Safe (f x) Q) : Act.Safe (a >>= f) Q := by
  rw [ha]
  exact hf

theorem Act.Safe.of_eq {b : Act β} {x : β} (hb : b = .ok x) (h : Q x) : Act.Safe b Q := hb ▸ .ok h

theorem Act.Safe.ite {c : Prop} [Decidable c] {b b' : Act β} (h : c → Act.Safe b Q) (h' : ¬c → Act.Safe b' Q) :
    Act.Safe (if c then b else b') Q := by
  split
  · exact h ‹_›
  · exact h' ‹_›

theorem Act.Safe.expect {b : Bool} {f : Unit → Act β} (hb : b = true) (hf : Act.Safe (f ()) Q) :
    Act.Safe (expect b >>= f) Q := by
  subst hb
  exact hf

theorem Act.Safe.require {b : Bool} {e : Err} {f : Unit → Act β} (hf : b = true → Act.Safe (f ()) Q) :
    Act.Safe (require b e >>= f) Q := by
  cases b with
  | false => exact .raise
  | true => exact hf rfl

theorem Faultless.finish {s : State} {a : Act State} (ha : Act.Runs a) : Faultless (finish s a) := by
  intro f hf
  obtain ⟨hn, -⟩ := ha
  cases a with
  | ok t => cases hf
  | error e =>
    cases e with
    | raise e => cases hf
    | fault g => exact hn g rfl
    | refuse r => cases hf

end

/-! ## Cursors that a rule may read from -/

/-- The memory and the end of a bit cursor's region. -/
def BitCursor.place (c : BitCursor) : CurMem × Nat := (c.mem, c.stop)

/-- The memory and the end of a byte cursor's region. -/
def ByteCursor.place (c : ByteCursor) : CurMem × Nat := (c.mem, c.stop)

/-- The bit cursor's reader set is built, over a region that its memory holds. -/
def State.bitLive (s : State) (id : BitCur) : Prop := s.bitsReady id 0 = true

/-- The byte cursor's reader set is built, over a region that its memory holds. -/
def State.byteLive (s : State) (id : ByteCur) : Prop := s.bytesReady id 0 = true

theorem State.bitLive_iff {s : State} {id : BitCur} :
    s.bitLive id ↔ bitCurReg id ∈ s.written ∧ s.holds (s.bitCur id).place.1 (s.bitCur id).place.2 = true := by
  simp [State.bitLive, State.bitsReady, State.has, BitCursor.place]

theorem State.byteLive_iff {s : State} {id : ByteCur} :
    s.byteLive id ↔ ∃ c, s.byteCur id = .ok c ∧ s.holds c.place.1 c.place.2 = true := by
  simp [State.byteLive, State.bytesReady_iff, ByteCursor.place]

/-- `s` with the reading positions of `u`. -/
def State.withCursors (s u : State) : State :=
  { s with bit1 := u.bit1, bit2 := u.bit2, d2b := u.d2b, a9 := u.a9, idx := u.idx, lit := u.lit, d2 := u.d2 }

/-- `t` is `s` after reads: positions have moved, regions have not. -/
structure AfterRead (s t : State) : Prop where
  rest : t = s.withCursors t
  bits : ∀ id, (t.bitCur id).place = (s.bitCur id).place
  a9 : ∀ p, (t.a9.get p).place = (s.a9.get p).place
  idx : t.idx.place = s.idx.place
  lit : t.lit.place = s.lit.place
  d2 : ∀ p, (t.d2.get p).place = (s.d2.get p).place

section

variable {s t u : State}

/-- What does not look at the reading positions is as it was. -/
theorem AfterRead.keeps {β : Sort*} (h : AfterRead s t) (P : State → β)
    (hP : ∀ u, P (s.withCursors u) = P s := by intro; rfl) : P t = P s :=
  (congrArg P h.rest).trans (hP t)

theorem AfterRead.trans (h : AfterRead s t) (h' : AfterRead t u) : AfterRead s u where
  rest := by
    calc u = t.withCursors u := h'.rest
      _ = (s.withCursors t).withCursors u := congrArg (·.withCursors u) h.rest
      _ = s.withCursors u := rfl
  bits id := (h'.bits id).trans (h.bits id)
  a9 p := (h'.a9 p).trans (h.a9 p)
  idx := h'.idx.trans h.idx
  lit := h'.lit.trans h.lit
  d2 p := (h'.d2 p).trans (h.d2 p)

theorem AfterRead.bitLive (h : AfterRead s t) {id : BitCur} (hl : s.bitLive id) : t.bitLive id := by
  rw [State.bitLive_iff] at hl ⊢
  rw [h.keeps State.written, h.bits id, h.keeps State.holds]
  exact hl

/-- A register read in both states finds cursors at the same place. -/
theorem AfterRead.rd_place (h : AfterRead s t) {r : Reg} {a b c : ByteCursor} (hb : b.place = a.place)
    (hc : s.rd r a = .ok c) : ∃ c', t.rd r b = .ok c' ∧ c'.place = c.place := by
  obtain ⟨hr, rfl⟩ := State.rd_eq_ok.mp hc
  exact ⟨b, State.rd_ok (by rwa [h.keeps State.written]), hb⟩

theorem AfterRead.byteCur (h : AfterRead s t) {id : ByteCur} {c : ByteCursor} (hc : s.byteCur id = .ok c) :
    ∃ c', t.byteCur id = .ok c' ∧ c'.place = c.place := by
  have hcfg : t.cfg = s.cfg := h.keeps State.cfg
  have hmap : t.a9map = s.a9map := h.keeps State.a9map
  have hcoding : t.coding = s.coding := h.keeps State.coding
  cases id with
  | header => cases hc
  | maskc => exact h.rd_place (hmap ▸ h.a9 _) hc
  | litc => exact h.rd_place (hmap ▸ h.a9 _) hc
  | tabc => exact h.rd_place (hmap ▸ h.a9 _) hc
  | edgelit => exact h.rd_place (hmap ▸ h.a9 _) hc
  | idx => exact h.rd_place h.idx hc
  | lit => exact h.rd_place h.lit hc
  | run =>
    simp only [State.byteCur, hcfg] at hc ⊢
    split at hc
    · exact h.rd_place h.idx hc
    · exact h.rd_place h.lit hc
  | d2l | d2dist | d2key | d2mask =>
    obtain ⟨d, hd, hc⟩ := Act.bind_eq_ok.mp hc
    simp only [State.byteCur, hcoding, hd, Act.ok_bind]
    exact h.rd_place (h.d2 _) hc

theorem AfterRead.byteLive (h : AfterRead s t) {id : ByteCur} (hl : s.byteLive id) : t.byteLive id := by
  rw [State.byteLive_iff] at hl ⊢
  obtain ⟨c, hc, hh⟩ := hl
  obtain ⟨c', hc', hp⟩ := h.byteCur hc
  exact ⟨c', hc', by rwa [hp, h.keeps State.holds]⟩

/-- Moving one physical cursor of a bank moves no region. -/
theorem ByteBank.place_get_after (b : ByteBank) (p q : Phys) (n : Nat) :
    ((b.set ((b.get p).after n) p).get q).place = (b.get q).place := by
  cases p <;> cases q <;> rfl

theorem afterRead_setBitCur (s : State) (id : BitCur) (n : Nat) :
    AfterRead s (s.setBitCur ((s.bitCur id).after n) id) := by
  cases id <;> exact ⟨rfl, fun id' => by cases id' <;> rfl, fun _ => rfl, rfl, rfl, fun _ => rfl⟩

theorem afterRead_a9 (s : State) (p : Phys) (n : Nat) :
    AfterRead s { s with a9 := s.a9.set ((s.a9.get p).after n) p } :=
  ⟨rfl, fun id => by cases id <;> rfl, fun q => s.a9.place_get_after p q n, rfl, rfl, fun _ => rfl⟩

theorem afterRead_d2 (s : State) (p : Phys) (n : Nat) :
    AfterRead s { s with d2 := s.d2.set ((s.d2.get p).after n) p } :=
  ⟨rfl, fun id => by cases id <;> rfl, fun _ => rfl, rfl, rfl, fun q => s.d2.place_get_after p q n⟩

theorem afterRead_idx (s : State) (n : Nat) : AfterRead s { s with idx := s.idx.after n } :=
  ⟨rfl, fun id => by cases id <;> rfl, fun _ => rfl, rfl, rfl, fun _ => rfl⟩

theorem afterRead_lit (s : State) (n : Nat) : AfterRead s { s with lit := s.lit.after n } :=
  ⟨rfl, fun id => by cases id <;> rfl, fun _ => rfl, rfl, rfl, fun _ => rfl⟩

theorem State.coding_eq_ok {d : D2Coding} : s.coding = .ok d ↔ s.cfg.d2 = some d := by
  unfold State.coding
  split <;> simp_all

theorem afterRead_setByteCur {id : ByteCur} {c : ByteCursor} (hc : s.byteCur id = .ok c) (n : Nat) :
    AfterRead s (s.setByteCur (c.after n) id) := by
  cases id with
  | header => cases hc
  | maskc | litc | tabc | edgelit =>
    obtain ⟨-, rfl⟩ := State.rd_eq_ok.mp hc
    exact afterRead_a9 s _ n
  | idx =>
    obtain ⟨-, rfl⟩ := State.rd_eq_ok.mp hc
    exact afterRead_idx s n
  | lit =>
    obtain ⟨-, rfl⟩ := State.rd_eq_ok.mp hc
    exact afterRead_lit s n
  | run =>
    simp only [State.byteCur, State.setByteCur] at hc ⊢
    split at hc
    · obtain ⟨-, rfl⟩ := State.rd_eq_ok.mp hc
      exact afterRead_idx s n
    · obtain ⟨-, rfl⟩ := State.rd_eq_ok.mp hc
      exact afterRead_lit s n
  | d2l | d2dist | d2key | d2mask =>
    obtain ⟨d, hd, hc⟩ := Act.bind_eq_ok.mp hc
    obtain ⟨-, rfl⟩ := State.rd_eq_ok.mp hc
    simp only [State.setByteCur, State.setByteCur.setPhys, State.coding_eq_ok.mp hd]
    exact afterRead_d2 s _ n

/-! ### Reads -/

theorem State.skipBits_safe {id : BitCur} (n : Nat) (h : s.bitLive id) : Act.Safe (s.skipBits id n) (AfterRead s) := by
  obtain ⟨hr, hh⟩ := State.bitLive_iff.mp h
  by_cases hn : n ≤ (s.bitCur id).avail
  · refine .of_eq (State.skipBits_ok ?_) (afterRead_setBitCur s id n)
    simp only [State.bitsReady, Bool.and_eq_true, State.has_cons, decide_eq_true_eq]
    exact ⟨⟨⟨hr, State.has_nil s⟩, hh⟩, hn⟩
  · rw [State.skipBits_short]
    · exact .raise
    · simp only [State.bitsShort, Bool.and_eq_true, State.has_cons, decide_eq_true_eq]
      exact ⟨⟨⟨hr, State.has_nil s⟩, hh⟩, Nat.lt_of_not_le hn⟩

theorem State.skipBytes_safe {id : ByteCur} (n : Nat) (h : s.byteLive id) :
    Act.Safe (s.skipBytes id n) (AfterRead s) := by
  obtain ⟨c, hc, hh⟩ := State.byteLive_iff.mp h
  by_cases hn : n ≤ c.avail
  · exact .of_eq (State.skipBytes_ok hc hh hn) (afterRead_setByteCur hc n)
  · rw [State.skipBytes_short (State.bytesShort_iff.mpr ⟨c, hc, hh, Nat.lt_of_not_le hn⟩)]
    exact .raise

theorem State.peekBits_runs {id : BitCur} (n : Nat) (h : s.bitLive id) : Act.Runs (s.peekBits id n) :=
  .of_eq (State.peekBits_ok n h) trivial

theorem State.peekBytes_runs {id : ByteCur} (n : Nat) (h : s.byteLive id) : Act.Runs (s.peekBytes id n) := by
  obtain ⟨c, hc, hh⟩ := State.byteLive_iff.mp h
  exact .of_eq (State.peekBytes_ok n hc hh) trivial

theorem State.bytesLeft_runs {id : ByteCur} (h : s.byteLive id) : Act.Runs (s.bytesLeft id) := by
  obtain ⟨c, hc, hh⟩ := State.byteLive_iff.mp h
  exact .of_eq (State.bytesLeft_ok hc hh) trivial

end

/-! ## The header front end -/

theorem imp_iff {a b : Bool} : imp a b = true ↔ (a = true → b = true) := by
  cases a <;> simp [imp]

/-- `State.headerUpTo`, fact by fact: what the header steps of rank below `r` have established (40_header.md R118). -/
structure State.HeaderFacts (s : State) (r : Nat) : Prop where
  len : 1 ≤ r → 12 ≤ s.len
  version : 3 ≤ r → Reg.version ∈ s.written
  rawType : 4 ≤ r → Reg.rawType ∈ s.written
  flagsAB : 5 ≤ r → Reg.flagsAB ∈ s.written
  dims : 6 ≤ r → Reg.dims ∈ s.written
  w_ne : 6 ≤ r → s.hdr.w ≠ 0
  h_ne : 6 ≤ r → s.hdr.h ≠ 0
  flagsCD : 7 ≤ r → Reg.flagsCD ∈ s.written
  alphaField : 8 ≤ r → Reg.alphaField ∈ s.written
  alphaField_eq : 8 ≤ r → s.hdr.alphaField = (s.hdr.transparency || s.hdr.animated)
  alphaRaw : 9 ≤ r → s.hdr.alphaField = true → Reg.alphaRaw ∈ s.written
  alphaLegacy : 9 ≤ r → s.hdr.alphaField = true → s.hdr.legacy = true → Reg.alphaBytes ∈ s.written
  anim : 10 ≤ r → s.hdr.animated = true → Reg.anim ∈ s.written
  isFirst : 11 ≤ r → s.hdr.animated = true → Reg.isFirst ∈ s.written
  alphaBytes : 12 ≤ r → s.hdr.alphaField = true → Reg.alphaBytes ∈ s.written
  headerSize : 13 ≤ r → Reg.headerSize ∈ s.written
  headerSize_eq : 13 ≤ r → s.hdr.headerSize.toNat = sizeOfHeader s.hdr
  colorCount : 14 ≤ r → s.hdr.indexColor = true → Reg.colorCount ∈ s.written
  alphaFits : 15 ≤ r → s.hdr.alphaField = true → s.hdr.headerSize.toNat + s.hdr.alphaBytes.toNat ≤ s.len
  dataEnd : 16 ≤ r → Reg.dataEnd ∈ s.written
  dataEnd_le : 16 ≤ r → s.hdr.dataEnd ≤ s.len
  qpGate : 17 ≤ r → Reg.qpGate ∈ s.written

theorem State.headerFacts {s : State} {r : Nat} (h : s.headerUpTo r = true) : s.HeaderFacts r := by
  simp only [State.headerUpTo, Bool.and_eq_true, imp_iff, State.has_cons, State.has_nil, decide_eq_true_eq, beq_iff_eq,
    bne_iff_ne, and_true] at h
  obtain ⟨⟨⟨⟨⟨⟨⟨⟨⟨⟨⟨⟨⟨⟨⟨len, version⟩, rawType⟩, flagsAB⟩, dims⟩, flagsCD⟩, alphaField⟩, alphaRaw⟩, anim⟩, isFirst⟩,
    alphaBytes⟩, colorCount⟩, headerSize⟩, alphaFits⟩, dataEnd⟩, qpGate⟩ := h
  exact {
    len := len, version := version, rawType := rawType, flagsAB := flagsAB
    dims := fun hr => (dims hr).1.1, w_ne := fun hr => (dims hr).1.2, h_ne := fun hr => (dims hr).2
    flagsCD := flagsCD
    alphaField := fun hr => (alphaField hr).1, alphaField_eq := fun hr => (alphaField hr).2
    alphaRaw := fun hr ha => (alphaRaw ⟨hr, ha⟩).1, alphaLegacy := fun hr ha => (alphaRaw ⟨hr, ha⟩).2
    anim := fun hr ha => anim ⟨hr, ha⟩, isFirst := fun hr ha => isFirst ⟨hr, ha⟩
    alphaBytes := fun hr ha => alphaBytes ⟨hr, ha⟩
    headerSize := fun hr => (headerSize hr).1, headerSize_eq := fun hr => (headerSize hr).2
    colorCount := fun hr hi => colorCount ⟨hr, hi⟩
    alphaFits := fun hr ha => alphaFits ⟨hr, ha⟩
    dataEnd := fun hr => (dataEnd hr).1, dataEnd_le := fun hr => (dataEnd hr).2
    qpGate := qpGate }

section

variable {s : State}

theorem State.needRegs_written {rs : List Reg} (h : ∀ r ∈ rs, r ∈ s.written) : s.needRegs rs = .ok () :=
  State.needRegs_ok (by simpa [State.has] using h)

theorem State.expectHdr_ok {k : HdrStep} (hs : s.seq.stage = .hdr k) : s.expectHdr k = .ok () := by
  simp [State.expectHdr, hs]

/-- Going on to the next header step needs the registers that decide which one it is. -/
theorem State.hdrDone_runs {k : HdrStep} (h : ∀ r ∈ hdrNeeds k, r ∈ s.written) : Act.Runs (s.hdrDone k) :=
  .run (State.needRegs_written h) (.ok trivial)

theorem State.setHdr_hdrDone_runs {r : Reg} {h : Header} {k : HdrStep}
    (hk : ∀ q ∈ hdrNeeds k, q = r ∨ q ∈ s.written) : Act.Runs ((s.setHdr r h).hdrDone k) :=
  State.hdrDone_runs fun q hq => State.mem_mark.mpr (hk q hq)

/-- The front end stands at step `k`, which is taken, and the steps before it have run. -/
structure State.AtHdr (s : State) (k : HdrStep) : Prop where
  stage : s.seq.stage = .hdr k
  facts : s.HeaderFacts (hdrRank k)
  taken : stepTaken s.hdr k = true

theorem execHdrLen_faultless (h : s.AtHdr .len) : Faultless (execHdrLen s) :=
  .finish (.run (State.expectHdr_ok h.stage) (.require fun _ => State.hdrDone_runs (by simp [hdrNeeds])))

theorem execHdrMagic_faultless (h : s.AtHdr .magic) : Faultless (execHdrMagic s) := by
  have hlen : 2 ≤ s.len := Nat.le_trans (by decide) (h.facts.len (by decide))
  have hp : s.within .packet 2 = .ok () := State.within_ok (Bool.and_eq_true_iff.mpr ⟨rfl, decide_eq_true hlen⟩)
  exact .finish (.run (State.expectHdr_ok h.stage) (.run hp (.require fun _ => State.hdrDone_runs (by simp [hdrNeeds]))))

theorem execHdrVersion_faultless (h : s.AtHdr .version) (v : Byte) : Faultless (execHdrVersion v s) :=
  .finish (.run (State.expectHdr_ok h.stage) (State.setHdr_hdrDone_runs (by simp [hdrNeeds])))

theorem execHdrRawType_faultless (h : s.AtHdr .rawType) (v : Byte) : Faultless (execHdrRawType v s) :=
  .finish (.run (State.expectHdr_ok h.stage) (.require fun _ => State.setHdr_hdrDone_runs (by simp [hdrNeeds])))

theorem execHdrFlagsAB_faultless (h : s.AtHdr .flagsAB) (a b : Byte) : Faultless (execHdrFlagsAB a b s) :=
  .finish (.run (State.expectHdr_ok h.stage) (.run (State.needRegs_written (by simp [h.facts.version (by decide)]))
    (State.setHdr_hdrDone_runs (by simp [hdrNeeds]))))

theorem execHdrDims_faultless (h : s.AtHdr .dims) (w ht : Half) : Faultless (execHdrDims w ht s) :=
  .finish (.run (State.expectHdr_ok h.stage) (.require fun _ => State.setHdr_hdrDone_runs (by simp [hdrNeeds])))

theorem execHdrFlagsCD_faultless (h : s.AtHdr .flagsCD) (c d : Byte) : Faultless (execHdrFlagsCD c d s) :=
  .finish (.run (State.expectHdr_ok h.stage) (.run (State.needRegs_written (by simp [h.facts.version (by decide)]))
    (State.setHdr_hdrDone_runs (by simp [hdrNeeds]))))

theorem execHdrAlphaPresent_faultless (h : s.AtHdr .alphaPresent) : Faultless (execHdrAlphaPresent s) := by
  have hab := h.facts.flagsAB (by decide)
  exact .finish (.run (State.expectHdr_ok h.stage) (.run (State.needRegs_written (by simp [hab]))
    (State.setHdr_hdrDone_runs (by simp [hdrNeeds, hab]))))

theorem execHdrAlphaLegacy_faultless (h : s.AtHdr .alpha) (hl : s.hdr.legacy = true) (raw : Word) :
    Faultless (execHdrAlphaLegacy raw s) := by
  have hab := h.facts.flagsAB (by decide)
  have hneed : ∀ r ∈ [Reg.alphaField, .version], r ∈ s.written := by
    simp [h.facts.alphaField (by decide), h.facts.version (by decide)]
  refine .finish (.run (State.expectHdr_ok h.stage) (.run (State.needRegs_written hneed) (.expect ?_ (.require fun _ =>
    State.setHdr_hdrDone_runs ?_))))
  · exact Bool.and_eq_true_iff.mpr ⟨h.taken, hl⟩
  · intro q hq
    obtain rfl : q = .flagsAB := by simpa [hdrNeeds] using hq
    exact .inr (State.mem_mark.mpr (.inr hab))

theorem State.readAlphaModern_runs (h : s.AtHdr .alpha) (hl : s.hdr.legacy = false) (raw : Half) (mode : Byte) :
    Act.Runs (s.readAlphaModern raw mode) := by
  have hab := h.facts.flagsAB (by decide)
  have ha : s.hdr.alphaField = true := h.taken
  refine .run (State.needRegs_written ?_) (.expect ?_ (.require fun _ => State.setHdr_hdrDone_runs ?_))
  · simp [h.facts.alphaField (by decide), h.facts.version (by decide)]
  · simp [ha, hl]
  · simp [hdrNeeds, hab]

theorem State.scaleAlphaModern_runs (h : s.AtHdr .scale) : Act.Runs s.scaleAlphaModern := by
  obtain ⟨ha, -⟩ := Bool.and_eq_true_iff.mp h.taken
  refine .run (State.needRegs_written ?_) (.ite (fun hanim => .run (State.rd_ok ?_) ?_) fun _ => .run rfl ?_)
  · simp [h.facts.alphaRaw (by decide) ha, h.facts.flagsAB (by decide)]
  · exact h.facts.isFirst (by decide) hanim
  · exact State.setHdr_hdrDone_runs (by simp [hdrNeeds])
  · exact State.setHdr_hdrDone_runs (by simp [hdrNeeds])

theorem execHdrAlphaModern_read_faultless (h : s.AtHdr .alpha) (hl : s.hdr.legacy = false) (raw : Half)
    (mode pad : Byte) : Faultless (execHdrAlphaModern raw mode pad s) := by
  unfold execHdrAlphaModern
  rw [h.stage]
  exact .finish (State.readAlphaModern_runs h hl raw mode)

theorem execHdrAlphaModern_scale_faultless (h : s.AtHdr .scale) (raw : Half) (mode pad : Byte) :
    Faultless (execHdrAlphaModern raw mode pad s) := by
  unfold execHdrAlphaModern
  rw [h.stage]
  exact .finish (State.scaleAlphaModern_runs h)

theorem execHdrAnim_faultless (h : s.AtHdr .anim) (total current delay : Half) (noRepeat pad : Byte) :
    Faultless (execHdrAnim total current delay noRepeat pad s) :=
  .finish (.run (State.expectHdr_ok h.stage) (.run (State.needRegs_written (by simp [h.facts.flagsAB (by decide)]))
    (.expect h.taken (.require fun _ => State.setHdr_hdrDone_runs (by simp [hdrNeeds])))))

theorem execHdrFirst_faultless (h : s.AtHdr .first) : Faultless (execHdrFirst s) := by
  have haf := h.facts.alphaField (by decide)
  have hv := h.facts.version (by decide)
  refine .finish (.run (State.expectHdr_ok h.stage) (.run (State.needRegs_written ?_) (.ite (fun hanim =>
    .run (State.needRegs_written ?_) (State.setHdr_hdrDone_runs ?_)) fun _ => State.hdrDone_runs ?_)))
  · simp [h.facts.flagsAB (by decide)]
  · simp [h.facts.anim (by decide) hanim]
  · simp [hdrNeeds, haf, hv]
  · simp [hdrNeeds, haf, hv]

theorem execHdrSize_faultless (h : s.AtHdr .size) : Faultless (execHdrSize s) := by
  have haf := h.facts.alphaField (by decide)
  refine .finish (.run (State.expectHdr_ok h.stage) (.run (State.needRegs_written ?_) (State.setHdr_hdrDone_runs ?_)))
  · simp [haf, h.facts.flagsAB (by decide)]
  · simp [hdrNeeds, haf, h.facts.flagsCD (by decide)]

theorem execHdrIndex_faultless (h : s.AtHdr .index) {pad : Option Word} (hp : (pad.isSome == s.hdr.ninePatch) = true)
    (count : Word) : Faultless (execHdrIndex pad count s) := by
  refine .finish (.run (State.expectHdr_ok h.stage) (.run (State.needRegs_written ?_) (.expect ?_ (.require fun _ =>
    State.setHdr_hdrDone_runs ?_))))
  · simp [h.facts.flagsCD (by decide), h.facts.headerSize (by decide)]
  · exact Bool.and_eq_true_iff.mpr ⟨h.taken, hp⟩
  · simp [hdrNeeds, h.facts.alphaField (by decide)]

theorem execHdrXval_faultless (h : s.AtHdr .xval) : Faultless (execHdrXval s) := by
  refine .finish (.run (State.expectHdr_ok h.stage) (.run (State.needRegs_written ?_) (.expect h.taken
    (.require fun _ => State.hdrDone_runs (by simp [hdrNeeds])))))
  simp [h.facts.alphaField (by decide), h.facts.headerSize (by decide), h.facts.alphaBytes (by decide) h.taken]

theorem execHdrDataEnd_faultless (h : s.AtHdr .dataEnd) : Faultless (execHdrDataEnd s) := by
  refine .finish (.run (State.expectHdr_ok h.stage) (.run (State.needRegs_written ?_) (.ite
    (fun ha => .run (State.rd_ok ?_) (State.setHdr_hdrDone_runs ?_)) fun _ => .run rfl (State.setHdr_hdrDone_runs ?_))))
  · simp [h.facts.alphaField (by decide), h.facts.headerSize (by decide)]
  · exact h.facts.alphaBytes (by decide) ha
  · simp [hdrNeeds]
  · simp [hdrNeeds]

theorem execHdrQpGate_faultless (h : s.AtHdr .qpGate) : Faultless (execHdrQpGate s) :=
  .finish (.run (State.expectHdr_ok h.stage) (.run
    (State.needRegs_written (by simp [h.facts.flagsAB (by decide), h.facts.flagsCD (by decide)]))
    (State.setHdr_hdrDone_runs (by simp [hdrNeeds]))))

/-- No header step faults where the front end stands at it. -/
theorem exec_hdr_faultless {k : HdrStep} {i : Instr} (h : s.AtHdr k)
    (hi : (Format.hdr k s.hdr.legacy s.hdr.ninePatch).admits i = true) : Faultless (exec i s) := by
  cases k with
  | len => cases i with
    | hdrLen => exact execHdrLen_faultless h
    | _ => cases hi
  | magic => cases i with
    | hdrMagic => exact execHdrMagic_faultless h
    | _ => cases hi
  | version => cases i with
    | hdrVersion v => exact execHdrVersion_faultless h v
    | _ => cases hi
  | rawType => cases i with
    | hdrRawType v => exact execHdrRawType_faultless h v
    | _ => cases hi
  | flagsAB => cases i with
    | hdrFlagsAB a b => exact execHdrFlagsAB_faultless h a b
    | _ => cases hi
  | dims => cases i with
    | hdrDims w ht => exact execHdrDims_faultless h w ht
    | _ => cases hi
  | flagsCD => cases i with
    | hdrFlagsCD c d => exact execHdrFlagsCD_faultless h c d
    | _ => cases hi
  | alphaPresent => cases i with
    | hdrAlphaPresent => exact execHdrAlphaPresent_faultless h
    | _ => cases hi
  | alpha =>
    cases hl : s.hdr.legacy with
    | true =>
      rw [hl] at hi
      cases i with
      | hdrAlphaLegacy raw => exact execHdrAlphaLegacy_faultless h hl raw
      | _ => cases hi
    | false =>
      rw [hl] at hi
      cases i with
      | hdrAlphaModern raw mode pad => exact execHdrAlphaModern_read_faultless h hl raw mode pad
      | _ => cases hi
  | anim => cases i with
    | hdrAnim total current delay noRepeat pad => exact execHdrAnim_faultless h total current delay noRepeat pad
    | _ => cases hi
  | first => cases i with
    | hdrFirst => exact execHdrFirst_faultless h
    | _ => cases hi
  | scale => cases i with
    | hdrAlphaModern raw mode pad => exact execHdrAlphaModern_scale_faultless h raw mode pad
    | _ => cases hi
  | size => cases i with
    | hdrSize => exact execHdrSize_faultless h
    | _ => cases hi
  | index => cases i with
    | hdrIndex pad count => exact execHdrIndex_faultless h hi count
    | _ => cases hi
  | xval => cases i with
    | hdrXval => exact execHdrXval_faultless h
    | _ => cases hi
  | dataEnd => cases i with
    | hdrDataEnd => exact execHdrDataEnd_faultless h
    | _ => cases hi
  | qpGate => cases i with
    | hdrQpGate => exact execHdrQpGate_faultless h
    | _ => cases hi

/-- What a header step reads to know its format has been written. -/
theorem State.hdrFormat_written {k : HdrStep} (h : s.AtHdr k) : ∀ r ∈ hdrFormatNeeds k, r ∈ s.written := by
  cases k with
  | alpha => simp [hdrFormatNeeds, h.facts.version (by decide)]
  | index => simp [hdrFormatNeeds, h.facts.flagsCD (by decide), h.facts.headerSize (by decide)]
  | _ => simp [hdrFormatNeeds]

end

/-! ## A9LL -/

/-- `RS.A9LL` is built and the frame size is known: every A9LL cursor may be read. -/
structure State.A9Ready (s : State) : Prop where
  dims : Reg.dims ∈ s.written
  bit1 : s.bitLive .bit1
  bit2 : s.bitLive .bit2
  maskc : s.byteLive .maskc
  litc : s.byteLive .litc
  tabc : s.byteLive .tabc
  edgelit : s.byteLive .edgelit

section

variable {s t : State}

theorem State.bitLive_of_inside {id : BitCur} (hr : bitCurReg id ∈ s.written) (h : s.bitInside (s.bitCur id) = true) :
    s.bitLive id := by
  simp only [State.bitInside, Bool.and_eq_true, decide_eq_true_eq] at h
  obtain ⟨⟨⟨hm, -⟩, hstop⟩, -⟩ := h
  refine State.bitLive_iff.mpr ⟨hr, ?_⟩
  simp [BitCursor.place, hm, State.holds, State.memHas, State.memLen, hstop]

theorem State.byteLive_of_inside {id : ByteCur} {c : ByteCursor} (hc : s.byteCur id = .ok c)
    (h : s.byteInside c = true) : s.byteLive id :=
  State.byteLive_iff.mpr ⟨c, hc, (Bool.and_eq_true_iff.mp h).2⟩

theorem State.bankInside_get {b : ByteBank} (h : s.bankInside b = true) (p : Phys) : s.byteInside (b.get p) = true := by
  simp only [State.bankInside, Bool.and_eq_true] at h
  obtain ⟨⟨⟨h0, h1⟩, h2⟩, h3⟩ := h
  cases p <;> assumption

theorem State.a9Ready (hd : Reg.dims ∈ s.written) (h : s.a9Built = true) : s.A9Ready := by
  simp only [State.a9Built, Bool.and_eq_true, State.has_cons] at h
  obtain ⟨⟨⟨⟨hr, -⟩, h1⟩, h2⟩, hb⟩ := h
  have live : ∀ {id : ByteCur} (p : Phys), s.byteCur id = s.rd .rsA9LL (s.a9.get p) → s.byteLive id := fun p hc =>
    State.byteLive_of_inside (hc.trans (State.rd_ok hr)) (State.bankInside_get hb p)
  exact {
    dims := hd
    bit1 := State.bitLive_of_inside hr h1
    bit2 := State.bitLive_of_inside hr h2
    maskc := live _ rfl
    litc := live _ rfl
    tabc := live _ rfl
    edgelit := live _ rfl }

theorem AfterRead.dims (h : AfterRead s t) (hd : Reg.dims ∈ s.written) : Reg.dims ∈ t.written := by
  rwa [h.keeps State.written]

theorem AfterRead.a9Ready (h : AfterRead s t) (hs : s.A9Ready) : t.A9Ready where
  dims := h.dims hs.dims
  bit1 := h.bitLive hs.bit1
  bit2 := h.bitLive hs.bit2
  maskc := h.byteLive hs.maskc
  litc := h.byteLive hs.litc
  tabc := h.byteLive hs.tabc
  edgelit := h.byteLive hs.edgelit

/-! ### Shared operations -/

theorem State.modeStreams_runs (h : s.A9Ready) (n : Nat) : Act.Runs (s.modeStreams n) :=
  (State.peekBits_runs n h.bit1).bind fun _ _ => (State.peekBytes_runs 2 h.maskc).bind fun _ _ => .ok trivial

theorem State.nextMb_runs (hd : Reg.dims ∈ s.written) : Act.Runs s.nextMb := .of_eq (State.nextMb_ok hd) trivial

theorem State.nextSub_runs (k : SubKind) (hd : Reg.dims ∈ s.written) : Act.Runs (s.nextSub k) :=
  .of_eq (State.nextSub_ok k hd) trivial

theorem State.tileDone_runs (k : TileKind) (hd : Reg.dims ∈ s.written) : Act.Runs (s.tileDone k) :=
  .of_eq (State.tileDone_ok k hd) trivial

theorem State.openTile_runs (h : s.A9Ready) (pr : Predictor) (k : TileKind) (mask : Half) :
    Act.Runs (s.openTile pr k mask) :=
  (State.skipBytes_safe 2 h.maskc).bind fun _ _ => .ok trivial

theorem State.tileFits_iff {k : TileKind} :
    s.tileFits k = true ↔ (s.tileAt k).1 + 4 ≤ s.fw ∧ (s.tileAt k).2 + 4 ≤ s.fh := by
  simp [State.tileFits]

theorem State.edgeTile_runs {k : TileKind} (hd : Reg.dims ∈ s.written) (hf : s.tileFits k = true) :
    Act.Runs (s.edgeTile k) := by
  obtain ⟨hx, hy⟩ := State.tileFits_iff.mp hf
  refine .run (State.origin_ok k hd) (.ite (fun _ => .run rfl (State.tileDone_runs k hd)) fun _ => ?_)
  exact .run (State.fillRect_ok hd hx hy) (State.tileDone_runs k hd)

/-- A mode of `n` bits, then the edge tile. -/
theorem State.edgeMode_runs {k : TileKind} (n : Nat) (h : s.A9Ready) (hf : s.tileFits k = true) :
    Act.Runs (do let s ← s.skipBits .bit1 n; s.edgeTile k) :=
  (State.skipBits_safe n h.bit1).bind fun t ht =>
    State.edgeTile_runs (ht.dims h.dims) (by rwa [ht.keeps (·.tileFits k)])

/-- A mode of `n` bits, then a predicted tile. -/
theorem State.openMode_runs (n : Nat) (h : s.A9Ready) (pr : Predictor) (k : TileKind) (mask : Half) :
    Act.Runs (do let s ← s.skipBits .bit1 n; s.openTile pr k mask) :=
  (State.skipBits_safe n h.bit1).bind fun _ ht => State.openTile_runs (ht.a9Ready h) pr k mask

/-- The square copied from the reference leaves the frame size known. -/
theorem State.copyRef_safe {x0 y0 n : Nat} {dx dy : Int} (hd : Reg.dims ∈ s.written) (hr : s.refUsable = true)
    (hx : x0 + n ≤ s.fw) (hy : y0 + n ≤ s.fh) (hi : inside s.fw s.fh (x0 + dx) (y0 + dy) n n = true) :
    Act.Safe (s.copyRef x0 y0 n dx dy) fun t => Reg.dims ∈ t.written :=
  .of_eq (State.copyRef_ok hd hr hx hy hi) hd

theorem inside_zero {fw fh x y n : Nat} (hx : x + n ≤ fw) (hy : y + n ≤ fh) :
    inside fw fh (x + 0) (y + 0) n n = true := by
  rw [inside_iff]
  omega

/-! ### Where tiles and sub-blocks lie -/

theorem wholeTiles_iff {w h : Nat} : wholeTiles w h = true ↔ w % 4 = 0 ∧ h % 4 = 0 := by simp [wholeTiles]

theorem fullMb_iff {w h : Nat} {o : Nat × Nat} : fullMb w h o = true ↔ o.1 + 16 ≤ w ∧ o.2 + 16 ≤ h := by
  simp [fullMb]

/-- A tile of a frame of whole tiles lies inside the image (42_a9ll_intra.md R145). -/
theorem State.tileFits_frame (hw : wholeTiles s.fw s.fh = true) (ht : s.tileValid = true) :
    s.tileFits .frame = true := by
  obtain ⟨h4, h4'⟩ := wholeTiles_iff.mp hw
  have ht : s.seq.t < s.fw / 4 * (s.fh / 4) := by simpa [State.tileValid] using ht
  have hpos : 0 < s.fw / 4 := Nat.pos_of_ne_zero fun h0 => by simp [h0] at ht
  have hcol : s.seq.t % (s.fw / 4) < s.fw / 4 := Nat.mod_lt _ hpos
  have hrow : s.seq.t / (s.fw / 4) < s.fh / 4 := Nat.div_lt_of_lt_mul ht
  rw [State.tileFits_iff]
  simp only [State.tileAt, tileOrigin]
  omega

/-- A sub-block of a full macroblock lies inside the image (00_scope.md R12). -/
theorem State.tileFits_sub {k : SubKind} (hm : s.mbFull = true) (hs : s.seq.s ≤ 15) :
    s.tileFits (.within k) = true := by
  obtain ⟨hx, hy⟩ := fullMb_iff.mp hm
  rw [State.tileFits_iff]
  simp only [State.tileAt, subOrigin, State.mbAt] at *
  omega

/-! ### Intra tiles -/

theorem State.dirTile2_runs (hs : s.seq.stage = .tile) (h : s.A9Ready) (d : Dir) (mask : Half) :
    Act.Runs (s.dirTile2 d mask) :=
  .expect (decide_eq_true hs) (State.openMode_runs 2 h _ _ mask)

theorem exec_tile2_faultless {i : Instr} (hs : s.seq.stage = .tile) (h : s.A9Ready) (hf : s.tileFits .frame = true)
    (hi : Format.tile2.admits i = true) : Faultless (exec i s) := by
  cases i with
  | tile2Dir0 mask => exact .finish (State.dirTile2_runs hs h _ mask)
  | tile2Dir1 mask => exact .finish (State.dirTile2_runs hs h _ mask)
  | tile2Dir2 mask => exact .finish (State.dirTile2_runs hs h _ mask)
  | tile2Edge => exact .finish (.expect (decide_eq_true hs) (State.edgeMode_runs 2 h hf))
  | _ => cases hi

/-! ### Pixels -/

/-- The sequencer stands at a pixel symbol, and all that the symbol may read is there. -/
structure State.AtPixel (s : State) (pr : Predictor) (k : TileKind) (set : Bool) : Prop where
  ready : s.A9Ready
  stands : s.pixelStands pr k set = true
  pred : s.predReady pr (s.pixelAt k).1 (s.pixelAt k).2 = true
  dt : Reg.dt ∈ s.written
  dt_length : s.dt.length = 511

theorem State.delta_ok {k : Nat} (hd : Reg.dt ∈ s.written) (hk : k < s.dt.length) : s.delta k = .ok s.dt[k] := by
  simp [State.delta, State.rd_ok hd, hk]

/-- An address of R156 lies in the table (42_a9ll_intra.md R156). -/
theorem deltaAddress_lt {c i : Nat} (hc : c ≤ 6) (hi : i < 2 ^ (c + 1)) : deltaAddress c i < 511 := by
  have hpow : 2 ^ (c + 1) ≤ 2 ^ 7 := Nat.pow_le_pow_right (by decide) (by omega)
  unfold deltaAddress
  omega

/-- The pixel that is next takes a value, and the loop goes on. -/
theorem State.putPixel_pixelDone_runs {x y : Nat} (v : Half) (k : TileKind) (hd : Reg.dims ∈ s.written)
    (hx : x < s.fw) (hy : y < s.fh) : Act.Runs (do let s ← s.putPixel x y v; s.pixelDone k) :=
  .run (State.putPixel_ok hd hx hy) (.of_eq (State.pixelDone_ok k hd) trivial)

theorem State.residual_runs {pr : Predictor} {k : TileKind} (h : s.AtPixel pr k false) {c i : Nat} (hc : c ≤ 6)
    (hi : i < 2 ^ (c + 1)) : Act.Runs (s.residual c i) := by
  obtain ⟨hx, hy⟩ := State.pixelAt_lt h.stands
  refine .run (State.pixelHere_ok h.stands) ((State.skipBits_safe 3 h.ready.bit2).bind fun t ht =>
    (State.skipBits_safe (c + 1) (ht.bitLive h.ready.bit1)).bind fun u hu => ?_)
  have hu : AfterRead s u := ht.trans hu
  have hd := hu.dims h.ready.dims
  rw [← hu.keeps State.fw] at hx
  rw [← hu.keeps State.fh] at hy
  have hpred : u.predReady pr (s.pixelAt k).1 (s.pixelAt k).2 = true :=
    (hu.keeps (·.predReady pr (s.pixelAt k).1 (s.pixelAt k).2)).trans h.pred
  have hdelta : deltaAddress c i < u.dt.length := by
    rw [hu.keeps State.dt, h.dt_length]
    exact deltaAddress_lt hc hi
  have hdt : Reg.dt ∈ u.written := by
    rw [hu.keeps State.written]
    exact h.dt
  exact .run (State.predict_ok hd hpred hx hy) (.run (State.delta_ok hdt hdelta)
    (State.putPixel_pixelDone_runs _ k hd hx hy))

theorem execPixCopy_faultless {pr : Predictor} {k : TileKind} (h : s.AtPixel pr k true) : Faultless (execPixCopy s) := by
  obtain ⟨hx, hy⟩ := State.pixelAt_lt h.stands
  exact .finish (.run (State.pixelHere_ok h.stands) (.run (State.predict_ok h.ready.dims h.pred hx hy)
    (State.putPixel_pixelDone_runs _ k h.ready.dims hx hy)))

theorem execPixLit_faultless {pr : Predictor} {k : TileKind} (h : s.AtPixel pr k false) (lit : Half) :
    Faultless (execPixLit lit s) := by
  obtain ⟨hx, hy⟩ := State.pixelAt_lt h.stands
  refine .finish (.run (State.pixelHere_ok h.stands) ((State.skipBits_safe 3 h.ready.bit2).bind fun t ht =>
    (State.skipBytes_safe 2 (ht.byteLive h.ready.litc)).bind fun u hu => ?_))
  have hu : AfterRead s u := ht.trans hu
  rw [← hu.keeps State.fw] at hx
  rw [← hu.keeps State.fh] at hy
  exact State.putPixel_pixelDone_runs lit k (hu.dims h.ready.dims) hx hy

theorem exec_pixel_faultless {pr : Predictor} {k : TileKind} {set : Bool} {i : Instr} (h : s.AtPixel pr k set)
    (hi : (Format.pixel set).admits i = true) : Faultless (exec i s) := by
  cases set with
  | true =>
    cases i with
    | pixCopy => exact execPixCopy_faultless h
    | _ => cases hi
  | false =>
    cases i with
    | pixRes0 j => exact .finish (State.residual_runs h (by decide) j.isLt)
    | pixRes1 j => exact .finish (State.residual_runs h (by decide) j.isLt)
    | pixRes2 j => exact .finish (State.residual_runs h (by decide) j.isLt)
    | pixRes3 j => exact .finish (State.residual_runs h (by decide) j.isLt)
    | pixRes4 j => exact .finish (State.residual_runs h (by decide) j.isLt)
    | pixRes5 j => exact .finish (State.residual_runs h (by decide) j.isLt)
    | pixRes6 j => exact .finish (State.residual_runs h (by decide) j.isLt)
    | pixLit lit => exact execPixLit_faultless h lit
    | _ => cases hi

theorem State.pixelStreams_runs (h : s.A9Ready) : Act.Runs s.pixelStreams :=
  (State.peekBits_runs 3 h.bit2).bind fun _ _ => .ite
    (fun _ => (State.peekBytes_runs 2 h.litc).bind fun _ _ => .ok trivial)
    fun _ => (State.peekBits_runs 7 h.bit1).bind fun _ _ => .ok trivial

/-! ### Delta tables -/

theorem State.tableDone_runs (hd : Reg.dims ∈ s.written) (dt : List Half) : Act.Runs (s.tableDone dt) :=
  .run (State.dims_ok hd) (.ok trivial)

theorem exec_table_faultless {i : Instr} (hs : s.seq.stage = .table) (h : s.A9Ready) (hf : s.HeaderFacts 17)
    (hi : (Format.table s.hdr.dynamicTable).admits i = true) : Faultless (exec i s) := by
  have hab := hf.flagsAB (by decide)
  have hv := hf.version (by decide)
  cases hdyn : s.hdr.dynamicTable with
  | true =>
    rw [hdyn] at hi
    cases i with
    | dtab signs mags =>
      refine .finish (.expect (Bool.and_eq_true_iff.mpr ⟨decide_eq_true hs, hi⟩)
        (.run (State.needRegs_written (by simp [hab])) (.expect hdyn ?_)))
      exact (State.skipBytes_safe 512 h.tabc).bind fun t ht =>
        (State.skipBytes_safe 1024 (ht.byteLive h.tabc)).bind fun u hu =>
          State.tableDone_runs ((ht.trans hu).dims h.dims) _
    | _ => cases hi
  | false =>
    rw [hdyn] at hi
    cases i with
    | dtConst =>
      exact .finish (.expect (decide_eq_true hs) (.run (State.needRegs_written (by simp [hab, hv]))
        (.expect (by simp [hdyn]) (State.tableDone_runs h.dims _))))
    | _ => cases hi

end

/-! ### Macroblocks -/

section

variable {s t : State}

theorem State.mbHere_ok {full : Bool} (hs : s.seq.stage = .mb) (hd : Reg.dims ∈ s.written) (hf : s.mbFull = full) :
    s.mbHere full = .ok s.mbAt := by
  have hf : (fullMb s.fw s.fh (mbOrigin s.fw s.seq.t) == full) = true := beq_iff_eq.mpr hf
  unfold State.fw State.fh at hf
  simp [State.mbHere, hs, State.dims_ok hd, hf, State.mbAt, State.fw]

theorem State.mvHere_ok (hs : s.seq.stage = .mvCopy) (hd : Reg.dims ∈ s.written) : s.mvHere = .ok s.mbAt := by
  simp [State.mvHere, hs, State.dims_ok hd, State.mbAt, State.fw]

/-- A macroblock copied from the reference at an offset that stays inside it (43_a9ll_inter.md R172, R175). -/
theorem State.copyMb_runs {dx dy : Int} (n : Nat) (h : s.A9Ready) (hr : s.refUsable = true) (hm : s.mbFull = true)
    (hi : inside s.fw s.fh (s.mbAt.1 + dx) (s.mbAt.2 + dy) 16 16 = true) :
    Act.Runs (do
      let t ← s.skipBits .bit1 n
      let t ← t.copyRef s.mbAt.1 s.mbAt.2 16 dx dy
      t.nextMb) := by
  obtain ⟨hx, hy⟩ := fullMb_iff.mp hm
  refine (State.skipBits_safe n h.bit1).bind fun t ht => ?_
  rw [← ht.keeps State.fw] at hx hi
  rw [← ht.keeps State.fh] at hy hi
  rw [← ht.keeps State.refUsable] at hr
  exact (State.copyRef_safe (ht.dims h.dims) hr hx hy hi).bind fun u hd => State.nextMb_runs hd

theorem execMbMv_faultless (hs : s.seq.stage = .mb) (h : s.A9Ready) (hm : s.mbFull = true) (a : BitVec 8)
    (b : BitVec 7) : Faultless (execMbMv a b s) := by
  refine .finish (.run (State.mbHere_ok hs h.dims hm) (.run (State.dims_ok h.dims) ?_))
  refine (State.skipBits_safe 3 h.bit1).bind fun t ht => (State.skipBits_safe 8 (ht.bitLive h.bit1)).bind fun u hu =>
    (State.skipBits_safe 7 (hu.bitLive (ht.bitLive h.bit1))).bind fun v hv => ?_
  have hd : Reg.dims ∈ v.written := ((ht.trans hu).trans hv).dims h.dims
  exact .ite (fun _ => .ok trivial) fun _ => State.nextMb_runs (State.mem_mark.mpr (.inr hd))

theorem exec_mb16_faultless {i : Instr} (hs : s.seq.stage = .mb) (h : s.A9Ready) (hr : s.refUsable = true)
    (hm : s.mbFull = true) (hi : Format.mb16.admits i = true) : Faultless (exec i s) := by
  obtain ⟨hx, hy⟩ := fullMb_iff.mp hm
  have hhere := State.mbHere_ok hs h.dims hm
  cases i with
  | mbRefCopy => exact .finish (.run hhere (State.copyMb_runs 2 h hr hm (inside_zero hx hy)))
  | mbMvZero => exact .finish (.run hhere ((State.skipBits_safe 3 h.bit1).bind fun _ _ => .ok trivial))
  | mbMv a b => exact execMbMv_faultless hs h hm a b
  | mbSub2 => exact .finish (.run hhere ((State.skipBits_safe 1 h.bit1).bind fun _ _ => .ok trivial))
  | _ => cases hi

theorem exec_mbEdge_faultless {i : Instr} (hs : s.seq.stage = .mb) (h : s.A9Ready) (hm : s.mbFull = false)
    (hi : Format.mbEdge.admits i = true) : Faultless (exec i s) := by
  have hhere := State.mbHere_ok hs h.dims hm
  cases i with
  | embSkip1 => exact .finish (.run hhere ((State.skipBits_safe 1 h.bit1).bind fun _ _ => .raise))
  | embCells => exact .finish (.run hhere ((State.skipBits_safe 1 h.bit1).bind fun _ _ => .ok trivial))
  | _ => cases hi

theorem State.mvInside_iff :
    s.mvInside = true ↔
      Reg.mv ∈ s.written ∧ inside s.fw s.fh (s.mbAt.1 + s.mv.x) (s.mbAt.2 + s.mv.y) 16 16 = true := by
  simp [State.mvInside, State.has]

theorem exec_mvCopy_faultless {i : Instr} (hs : s.seq.stage = .mvCopy) (h : s.A9Ready) (hr : s.refUsable = true)
    (hm : s.mbFull = true) (hmv : s.mvInside = true) (hi : Format.mvCopy.admits i = true) : Faultless (exec i s) := by
  obtain ⟨hw, hin⟩ := State.mvInside_iff.mp hmv
  have hhere := State.mvHere_ok hs h.dims
  cases i with
  | mbMcCopy => exact .finish (.run hhere (.run (State.rd_ok hw) (State.copyMb_runs 1 h hr hm hin)))
  | mbMcSub => exact .finish (.run hhere ((State.skipBits_safe 1 h.bit1).bind fun _ _ => .ok trivial))
  | _ => cases hi

theorem exec_gate_faultless {k : SubKind} {i : Instr} (hs : s.seq.stage = .gate k) (hf : s.HeaderFacts 17)
    (hi : Format.gate.admits i = true) : Faultless (exec i s) := by
  cases i with
  | gate =>
    show Faultless (execGate s)
    unfold execGate
    rw [hs]
    exact .finish (.run (State.rd_ok (hf.qpGate (by decide))) (.require fun _ => .ok trivial))
  | _ => cases hi

/-! ### Sub-blocks -/

/-- Where sub-block `SEQ.s` of a full macroblock lies, from the macroblock's origin. -/
theorem State.tileAt_sub (s : State) (k : SubKind) :
    s.tileAt (.within k) = (s.mbAt.1 + 4 * (s.seq.s % 4), s.mbAt.2 + 4 * (s.seq.s / 4)) := rfl

/-- A sub-block copied from the reference (R182, R184). -/
theorem State.copySub_safe {k : SubKind} {dx dy : Int} (hd : Reg.dims ∈ s.written) (hr : s.refUsable = true)
    (hf : s.tileFits (.within k) = true)
    (hi : inside s.fw s.fh ((s.tileAt (.within k)).1 + dx) ((s.tileAt (.within k)).2 + dy) 4 4 = true) :
    Act.Safe (s.copyRef (s.tileAt (.within k)).1 (s.tileAt (.within k)).2 4 dx dy) fun t => Reg.dims ∈ t.written := by
  obtain ⟨hx, hy⟩ := State.tileFits_iff.mp hf
  exact State.copyRef_safe hd hr hx hy hi

theorem execS3CopyRef_faultless (hs : s.seq.stage = .sub .sub3) (h : s.A9Ready) (hr : s.refUsable = true)
    (hf : s.tileFits (.within .sub3) = true) : Faultless (execS3CopyRef s) := by
  refine .finish (.expect (decide_eq_true hs) ((State.skipBits_safe 3 h.bit1).bind fun t ht => ?_))
  have hd := ht.dims h.dims
  rw [← ht.keeps (·.tileFits _)] at hf
  rw [← ht.keeps State.refUsable] at hr
  obtain ⟨hx, hy⟩ := State.tileFits_iff.mp hf
  exact .run (State.origin_ok _ hd) ((State.copySub_safe hd hr hf (inside_zero hx hy)).bind fun _ hd =>
    State.nextSub_runs _ hd)

theorem execS3CopyMv_faultless (hs : s.seq.stage = .sub .sub3) (h : s.A9Ready) (hr : s.refUsable = true)
    (hf : s.tileFits (.within .sub3) = true) (hmv : Reg.mv ∈ s.written) : Faultless (execS3CopyMv s) := by
  refine .finish (.expect (decide_eq_true hs) ((State.skipBits_safe 3 h.bit1).bind fun t ht => ?_))
  have hd := ht.dims h.dims
  rw [← ht.keeps (·.tileFits _)] at hf
  rw [← ht.keeps State.refUsable] at hr
  rw [← ht.keeps State.written] at hmv
  refine .run (State.dims_ok hd) (.run (State.origin_ok _ hd) (.run (State.rd_ok hmv) (.ite (fun hin => ?_) fun _ => ?_)))
  · exact (State.copySub_safe hd hr hf hin).bind fun _ hd => State.nextSub_runs _ hd
  · exact .run rfl (State.nextSub_runs _ hd)

theorem exec_sub3_faultless {i : Instr} (hs : s.seq.stage = .sub .sub3) (h : s.A9Ready) (hr : s.refUsable = true)
    (hf : s.tileFits (.within .sub3) = true) (hmv : Reg.mv ∈ s.written) (hi : Format.sub3.admits i = true) :
    Faultless (exec i s) := by
  have masked (pr : Predictor) (mask : Half) : Act.Runs (s.maskedSub3 pr mask) :=
    .expect (decide_eq_true hs) (State.openMode_runs 3 h pr _ mask)
  cases i with
  | s3Dir0 mask => exact .finish (masked _ mask)
  | s3Dir1 mask => exact .finish (masked _ mask)
  | s3Dir2 mask => exact .finish (masked _ mask)
  | s3Edge => exact .finish (.expect (decide_eq_true hs) (State.edgeMode_runs 3 h hf))
  | s3ResRef mask => exact .finish (masked _ mask)
  | s3CopyRef => exact execS3CopyRef_faultless hs h hr hf
  | s3ResMv mask => exact .finish (masked _ mask)
  | s3CopyMv => exact execS3CopyMv_faultless hs h hr hf hmv
  | _ => cases hi

theorem exec_sub2_faultless {k : SubKind} {i : Instr} (hk : s.sub2Here = .ok (.within k)) (h : s.A9Ready)
    (hf : s.tileFits (.within k) = true) (hi : Format.sub2.admits i = true) : Faultless (exec i s) := by
  have dir (d : Dir) (mask : Half) : Act.Runs (s.dirSub2 d mask) := .run hk (State.openMode_runs 2 h _ _ mask)
  cases i with
  | s2Dir0 mask => exact .finish (dir _ mask)
  | s2Dir1 mask => exact .finish (dir _ mask)
  | s2Dir2 mask => exact .finish (dir _ mask)
  | s2Edge => exact .finish (.run hk (State.edgeMode_runs 2 h hf))
  | _ => cases hi

/-! ### Cells of an edge macroblock -/

theorem State.sub2Here_sub2 (hs : s.seq.stage = .sub .sub2) : s.sub2Here = .ok (.within .sub2) := by
  simp [State.sub2Here, hs]

theorem State.cellWhole_eq_tileFits (s : State) (k : SubKind) :
    cellWhole s.fw s.fh (s.tileAt (.within k)) = s.tileFits (.within k) := rfl

theorem State.sub2Here_cells (hs : s.seq.stage = .sub .cells) (hd : Reg.dims ∈ s.written)
    (hf : s.tileFits (.within .cells) = true) : s.sub2Here = .ok (.within .cells) := by
  have hf : cellWhole s.hdr.w.toNat s.hdr.h.toNat (subOrigin s.hdr.w.toNat s.seq.t s.seq.s) = true := hf
  simp [State.sub2Here, hs, State.dims_ok hd, hf]

theorem State.litCellHere_ok (hs : s.seq.stage = .sub .cells) (hd : Reg.dims ∈ s.written)
    (hv : cellVisible s.fw s.fh (s.tileAt (.within .cells)) = true) (hf : s.tileFits (.within .cells) = false) :
    s.litCellHere = .ok (s.tileAt (.within .cells), cellExtent s.fw s.fh (s.tileAt (.within .cells))) := by
  rw [← State.cellWhole_eq_tileFits] at hf
  simp only [State.tileAt, State.fw, State.fh] at *
  simp [State.litCellHere, hs, State.dims_ok hd, hv, hf]

theorem State.cellFormat_ok (hd : Reg.dims ∈ s.written) :
    s.cellFormat = .ok (if s.tileFits (.within .cells) then .sub2 else
      .litCell ((cellExtent s.fw s.fh (s.tileAt (.within .cells))).1 *
        (cellExtent s.fw s.fh (s.tileAt (.within .cells))).2)) := by
  unfold State.cellFormat
  rw [State.dims_ok hd]
  rfl

/-- The visible part of a visible cell lies inside the image (43_a9ll_inter.md R188). -/
theorem cellExtent_le {w h : Nat} {o : Nat × Nat} (hv : cellVisible w h o = true) :
    o.1 + (cellExtent w h o).1 ≤ w ∧ o.2 + (cellExtent w h o).2 ≤ h := by
  simp only [cellVisible, Bool.and_eq_true, decide_eq_true_eq] at hv
  simp only [cellExtent]
  omega

theorem exec_litCell_faultless {i : Instr} (hs : s.seq.stage = .sub .cells) (h : s.A9Ready)
    (hv : cellVisible s.fw s.fh (s.tileAt (.within .cells)) = true) (hf : s.tileFits (.within .cells) = false)
    (hi : (Format.litCell ((cellExtent s.fw s.fh (s.tileAt (.within .cells))).1 *
      (cellExtent s.fw s.fh (s.tileAt (.within .cells))).2)).admits i = true) : Faultless (exec i s) := by
  cases i with
  | embLitCell lits =>
    refine .finish (.run (State.litCellHere_ok hs h.dims hv hf) (.expect hi ?_))
    obtain ⟨hx, hy⟩ := cellExtent_le hv
    refine (State.skipBytes_safe _ h.edgelit).bind fun t ht => ?_
    have hd := ht.dims h.dims
    have hx := hx.trans_eq (ht.keeps State.fw).symm
    have hy := hy.trans_eq (ht.keeps State.fh).symm
    exact .run (State.fillRect_ok hd hx hy) (State.nextSub_runs _ hd)
  | _ => cases hi

end

/-! ## More written marks -/

section

variable {s t : State}

theorem State.mem_mark_self {r : Reg} : r ∈ (s.mark r).written := State.mem_mark.mpr (.inl rfl)

theorem State.mem_mark_of_mem {r q : Reg} (h : q ∈ s.written) : q ∈ (s.mark r).written := State.mem_mark.mpr (.inr h)

theorem State.rd_mark {α : Type} {r q : Reg} {v a : α} (h : s.rd q v = .ok a) : (s.mark r).rd q v = .ok a := by
  obtain ⟨hq, rfl⟩ := State.rd_eq_ok.mp h
  exact State.rd_ok (State.mem_mark_of_mem hq)

theorem State.byteCur_mark {r : Reg} {id : ByteCur} {c : ByteCursor} (h : s.byteCur id = .ok c) :
    (s.mark r).byteCur id = .ok c := by
  cases id with
  | header => cases h
  | run =>
    simp only [State.byteCur, State.mark_cfg, State.mark_idx, State.mark_lit] at h ⊢
    split at h
    · exact State.rd_mark h
    · exact State.rd_mark h
  | d2l | d2dist | d2key | d2mask =>
    obtain ⟨d, hd, h⟩ := Act.bind_eq_ok.mp h
    have hd : (s.mark r).coding = .ok d := hd
    simp only [State.byteCur, hd, Act.ok_bind]
    exact State.rd_mark h
  | _ => exact State.rd_mark h

theorem State.holds_mark {r : Reg} {mem : CurMem} {stop : Nat} (h : s.holds mem stop = true) :
    (s.mark r).holds mem stop = true := by
  obtain ⟨hm, hs⟩ := Bool.and_eq_true_iff.mp h
  refine Bool.and_eq_true_iff.mpr ⟨?_, by cases mem <;> exact hs⟩
  cases mem with
  | packet => rfl
  | ibuf =>
    simp only [State.memHas, State.has_cons] at hm ⊢
    obtain ⟨hi, hz, -⟩ := hm
    exact ⟨State.mem_mark_of_mem hi, State.mem_mark_of_mem hz, State.has_nil _⟩

theorem State.byteLive_mark {r : Reg} {id : ByteCur} (h : s.byteLive id) : (s.mark r).byteLive id := by
  obtain ⟨c, hc, hh⟩ := State.byteLive_iff.mp h
  exact State.byteLive_iff.mpr ⟨c, State.byteCur_mark hc, State.holds_mark hh⟩

/-! ## W2 depth 1 -/

/-- `W2.D1` runs: its cursors may be read, and `N` is the frame's pixel count (44_w2_depth1.md R200). -/
structure State.W2Ready (s : State) : Prop where
  dims : Reg.dims ∈ s.written
  built : Reg.rsW2D1 ∈ s.written
  count : Reg.pixelCount ∈ s.written
  tab : s.holds s.tab.mem s.tab.stop = true
  idx : s.byteLive .idx
  lit : s.byteLive .lit
  run : s.byteLive .run
  n_eq : s.n = s.fw * s.fh

theorem State.w2Ready (hd : Reg.dims ∈ s.written) (h : s.w2Running = true) : s.W2Ready := by
  simp only [State.w2Running, Bool.and_eq_true, State.has_cons, decide_eq_true_eq] at h
  obtain ⟨⟨⟨⟨⟨⟨hb, hc, -⟩, htab⟩, hidx⟩, hlit⟩, hn⟩, -⟩ := h
  refine ⟨hd, hb, hc, (Bool.and_eq_true_iff.mp htab).2, State.byteLive_of_inside (State.rd_ok hb) hidx,
    State.byteLive_of_inside (State.rd_ok hb) hlit, ?_, hn⟩
  cases hr : s.cfg.w2Layout.runFrom with
  | idx => exact State.byteLive_of_inside (by simp only [State.byteCur, hr]; exact State.rd_ok hb) hidx
  | lit => exact State.byteLive_of_inside (by simp only [State.byteCur, hr]; exact State.rd_ok hb) hlit

theorem AfterRead.w2Ready (h : AfterRead s t) (hs : s.W2Ready) : t.W2Ready where
  dims := h.dims hs.dims
  built := by rw [h.keeps State.written]; exact hs.built
  count := by rw [h.keeps State.written]; exact hs.count
  tab := (h.keeps fun s => s.holds s.tab.mem s.tab.stop).trans hs.tab
  idx := h.byteLive hs.idx
  lit := h.byteLive hs.lit
  run := h.byteLive hs.run
  n_eq := by rw [h.keeps State.n, h.keeps State.fw, h.keeps State.fh]; exact hs.n_eq

theorem State.W2Ready.mark (h : s.W2Ready) (r : Reg) : (s.mark r).W2Ready where
  dims := State.mem_mark_of_mem h.dims
  built := State.mem_mark_of_mem h.built
  count := State.mem_mark_of_mem h.count
  tab := State.holds_mark h.tab
  idx := State.byteLive_mark h.idx
  lit := State.byteLive_mark h.lit
  run := State.byteLive_mark h.run
  n_eq := h.n_eq

/-- The pixels written so far, `K`, `ENTRY` and `RUN` are no cursor's. -/
theorem State.W2Ready.update (h : s.W2Ready) (f : Pixels) (k : Nat) (e : Word) (run : Nat) :
    State.W2Ready { s with frame := f, k := k, entry := e, run := run } :=
  ⟨h.dims, h.built, h.count, h.tab, h.idx, h.lit, h.run, h.n_eq⟩

theorem State.w2Next_runs (hc : Reg.pixelCount ∈ s.written) (hi : s.byteLive .idx) : Act.Runs s.w2Next :=
  .run (State.rd_ok hc) (.run (State.rd_ok hc) (.ite (fun _ => .ok trivial) fun _ =>
    (State.bytesLeft_runs hi).bind fun _ _ => .ite (fun _ => .ok trivial) fun _ => .ok trivial))

theorem State.W2Ready.w2Next_runs (h : s.W2Ready) : Act.Runs s.w2Next := State.w2Next_runs h.count h.idx

/-- Pixel `K` of `N` lies in the image (44_w2_depth1.md R207). -/
theorem State.emit_safe (h : s.W2Ready) (v : Half) : Act.Safe (s.emit v) State.W2Ready := by
  refine .run (State.rd_ok h.count) (.run (State.rd_ok h.count) (.run (State.dims_ok h.dims) (.ite (fun hk => ?_)
    fun _ => .ok h)))
  have hk : s.k < s.fw * s.fh := h.n_eq ▸ hk
  have hw : 0 < s.fw := Nat.pos_of_mul_pos_right (Nat.zero_lt_of_lt hk)
  exact .run (State.putPixel_ok h.dims (Nat.mod_lt _ hw) (Nat.div_lt_of_lt_mul hk)) (.ok (h.update _ _ _ _))

theorem State.emitPair_safe (h : s.W2Ready) (q : Word) : Act.Safe (s.emitPair q) State.W2Ready :=
  (State.emit_safe h _).bind fun _ ht => State.emit_safe ht _

theorem State.emitPairs_safe (h : s.W2Ready) (q : Word) (n : Nat) : Act.Safe (State.emitPairs q n s) State.W2Ready := by
  induction n generalizing s with
  | zero => exact .ok h
  | succ n ih => exact (State.emitPair_safe h q).bind fun _ ht => ih ht

theorem ByteCursor.tableRead_runs (c : ByteCursor) (m : Memory) (j : Nat) : Act.Runs (c.tableRead m j) :=
  .ite (fun _ => .raise) fun _ => .ok trivial

theorem exec_value_faultless {i : Instr} (hs : s.seq.stage = .w2Index) (h : s.W2Ready)
    (hi : Format.value.admits i = true) : Faultless (exec i s) := by
  cases i with
  | value v => exact .finish (.expect (decide_eq_true hs) ((State.skipBytes_safe _ h.idx).bind fun _ _ => .ok trivial))
  | _ => cases hi

theorem execW2Lit_faultless (hs : s.seq.stage = .w2Sym 0) (h : s.W2Ready) (q : Word) : Faultless (execW2Lit q s) :=
  .finish (.expect (decide_eq_true hs) ((State.skipBytes_safe 4 h.lit).bind fun _ ht =>
    (State.emitPair_safe (ht.w2Ready h) q).bind fun _ hu => hu.w2Next_runs))

theorem execW2Run_faultless {idx : Nat} (hs : s.seq.stage = .w2Sym idx) (h : s.W2Ready) (hpos : 1 ≤ idx) (run : Nat) :
    Faultless (execW2Run idx run s) := by
  refine .finish (.expect (Bool.and_eq_true_iff.mpr ⟨decide_eq_true hs, decide_eq_true hpos⟩)
    (.run (State.needRegs_written (by simp [h.built])) (.run (State.within_ok h.tab)
      ((ByteCursor.tableRead_runs _ _ _).bind fun entry _ => ?_))))
  have h1 : (State.mark { s with entry := entry } .entry).W2Ready := (h.update s.frame s.k entry s.run).mark .entry
  refine (State.skipBytes_safe _ h1.run).bind fun t ht => ?_
  have ht := ht.w2Ready h1
  have h2 : (State.mark { t with run := run } .run).W2Ready := (ht.update t.frame t.k t.entry run).mark .run
  exact .run (State.rd_ok h2.count) (.run (State.rd_ok h2.count)
    ((State.emitPairs_safe h2 entry _).bind fun _ hu => hu.w2Next_runs))

theorem exec_w2Sym_faultless {idx : Nat} {i : Instr} (hs : s.seq.stage = .w2Sym idx) (h : s.W2Ready)
    (hi : (Format.w2Sym idx).admits i = true) : Faultless (exec i s) := by
  cases i with
  | w2Lit q =>
    obtain rfl : idx = 0 := beq_iff_eq.mp hi
    exact execW2Lit_faultless hs h q
  | w2Run j run =>
    obtain ⟨hj, h0⟩ := Bool.and_eq_true_iff.mp hi
    obtain rfl : idx = j := beq_iff_eq.mp hj
    exact execW2Run_faultless hs h (Nat.pos_of_ne_zero (bne_iff_ne.mp h0)) run
  | _ => cases hi

/-! ### The start of the depth-1 pass -/

theorem State.buildW2D1_safe {mem : CurMem} {b e : Nat} (hd : Reg.dims ∈ s.written) (hm : s.memHas mem = true)
    (he : e ≤ s.memLen mem) : Act.Safe (s.buildW2D1 mem b e) fun t => Reg.dims ∈ t.written ∧ t.byteLive .idx := by
  refine .run (State.needMem_ok hm) ?_
  split
  · exact .raise
  · rename_i g _
    refine .require fun hg => .ok ⟨State.mem_mark_of_mem hd, State.byteLive_iff.mpr ⟨byteCursorOver g.idx mem, ?_, ?_⟩⟩
    · exact State.rd_ok State.mem_mark_self
    · simp only [w2Ok, w2All, regionWithin, Bool.and_eq_true, List.all_cons, decide_eq_true_eq] at hg
      obtain ⟨⟨⟨-, ⟨-, hstop⟩, -⟩, -⟩, -⟩ := hg
      exact State.holds_mark (Bool.and_eq_true_iff.mpr ⟨hm, decide_eq_true (hstop.trans he)⟩)

theorem State.startW2D1_runs {mem : CurMem} {b e : Nat} (hd : Reg.dims ∈ s.written) (hm : s.memHas mem = true)
    (he : e ≤ s.memLen mem) : Act.Runs (s.startW2D1 mem b e) := by
  refine (State.buildW2D1_safe hd hm he).bind fun t ⟨hd, hi⟩ => .run (State.dims_ok hd) ?_
  exact State.w2Next_runs State.mem_mark_self (State.byteLive_mark hi)

end

/-! ## W2 depth 2 -/

/-- What writing to `IBUF` and going on needs: the frame size, `S`, `IBUF` and `IPOS` have been written. -/
structure State.IbufReady (s : State) : Prop where
  dims : Reg.dims ∈ s.written
  size : Reg.size ∈ s.written
  ibuf : Reg.ibuf ∈ s.written
  ipos : Reg.ipos ∈ s.written

/-- `W2.D2` runs under the coding `d`: its cursors may be read (45_w2_depth2.md R220). -/
structure State.D2Ready (s : State) (d : D2Coding) : Prop extends s.IbufReady where
  dist : Reg.dist ∈ s.written
  coding : s.coding = .ok d
  d2b : s.bitLive .d2b
  d2l : s.byteLive .d2l
  d2dist : s.byteLive .d2dist
  d2key : s.byteLive .d2key
  d2mask : s.byteLive .d2mask

section

variable {s t : State} {d : D2Coding}

theorem State.d2Ready (hd : Reg.dims ∈ s.written) (h : s.d2Running = true) : ∃ d, s.D2Ready d := by
  simp only [State.d2Running, Bool.and_eq_true, State.has_cons, Option.isSome_iff_exists] at h
  obtain ⟨⟨⟨⟨d, hc⟩, hb, hz, hi, hp, hdist, -⟩, hbits⟩, hbank⟩ := h
  have hcoding : s.coding = .ok d := State.coding_eq_ok.mpr hc
  have live : ∀ {id : ByteCur} (p : Phys), s.byteCur id = s.rd .rsW2D2 (s.d2.get p) → s.byteLive id := fun p hcur =>
    State.byteLive_of_inside (hcur.trans (State.rd_ok hb)) (State.bankInside_get hbank p)
  exact ⟨d, {
    dims := hd, size := hz, ibuf := hi, ipos := hp, dist := hdist, coding := hcoding
    d2b := State.bitLive_of_inside hb hbits
    d2l := live d.litCur (by simp [State.byteCur, hcoding])
    d2dist := live d.distCur (by simp [State.byteCur, hcoding])
    d2key := live d.keyCur (by simp [State.byteCur, hcoding])
    d2mask := live d.maskCur (by simp [State.byteCur, hcoding]) }⟩

theorem AfterRead.ibufReady (h : AfterRead s t) (hs : s.IbufReady) : t.IbufReady := by
  obtain ⟨hd, hz, hi, hp⟩ := hs
  rw [← h.keeps State.written] at hd hz hi hp
  exact ⟨hd, hz, hi, hp⟩

theorem AfterRead.d2Ready (h : AfterRead s t) (hs : s.D2Ready d) : t.D2Ready d where
  toIbufReady := h.ibufReady hs.toIbufReady
  dist := by rw [h.keeps State.written]; exact hs.dist
  coding := (h.keeps State.coding).trans hs.coding
  d2b := h.bitLive hs.d2b
  d2l := h.byteLive hs.d2l
  d2dist := h.byteLive hs.d2dist
  d2key := h.byteLive hs.d2key
  d2mask := h.byteLive hs.d2mask

theorem State.d2Here_ok {g : Stage} (hs : s.seq.stage = g) (h : s.D2Ready d) : s.d2Here g = .ok d := by
  simp [State.d2Here, hs, h.coding]

/-! ### The buffer -/

theorem State.getIbuf_ok {a : Nat} (h : s.IbufReady) (ha : a < s.size) : s.getIbuf a = .ok (Store.get s.ibuf a) := by
  simp [State.getIbuf, State.rd_ok h.ibuf, State.rd_ok h.size, ha]

theorem State.putIbuf_ok {a : Nat} {b : Byte} (h : s.IbufReady) (ha : a < s.size) :
    s.putIbuf a b = .ok { s with ibuf := Store.set s.ibuf a b } := by
  simp [State.putIbuf, State.rd_ok h.ibuf, State.rd_ok h.size, ha]

/-- What `IBUF` and `IPOS` hold does not matter for going on. -/
theorem State.IbufReady.update (h : s.IbufReady) (m : Memory) (p : Nat) :
    State.IbufReady { s with ibuf := m, ipos := p } :=
  ⟨h.dims, h.size, h.ibuf, h.ipos⟩

/-- Writing bytes that fit the buffer. -/
theorem State.appendIbuf_safe {bs : List Byte} (h : s.IbufReady) (hfit : s.ipos + bs.length ≤ s.size) :
    Act.Safe (s.appendIbuf bs) State.IbufReady :=
  .of_eq (State.appendIbuf_ok h.ibuf h.size h.ipos hfit) (h.update _ _)

/-- Copying bytes that fit the buffer (45_w2_depth2.md R228). -/
theorem State.copyBack_safe (dist : Nat) {a n : Nat} (h : s.IbufReady) (hfit : a + n ≤ s.size) :
    Act.Safe (s.copyBack dist a n) State.IbufReady := by
  induction n generalizing s a with
  | zero => exact .ok h
  | succ n ih =>
    exact .run (State.getIbuf_ok h (by omega)) (.run (State.putIbuf_ok h (by omega))
      (ih (h.update _ s.ipos) (by simp only; omega)))

theorem State.needSource_safe (h : s.IbufReady) (hd : Reg.dist ∈ s.written) :
    Act.Safe s.needSource fun x => x = (s.ipos, s.dist) ∧ 1 ≤ s.dist ∧ s.dist ≤ s.ipos :=
  .run (State.rd_ok h.ipos) (.run (State.rd_ok hd) (.require fun hr => by
    simp only [Bool.and_eq_true, decide_eq_true_eq] at hr
    exact .ok ⟨rfl, hr⟩))

theorem State.appendBack_safe {n : Nat} (h : s.IbufReady) (hd : Reg.dist ∈ s.written) (hfit : s.ipos + n ≤ s.size) :
    Act.Safe (s.appendBack n) State.IbufReady := by
  refine (State.needSource_safe h hd).bind ?_
  rintro _ ⟨rfl, -⟩
  exact (State.copyBack_safe s.dist h hfit).bind fun t ht => .ok (ht.update t.ibuf _)

/-- The XOR operand lies before the write position (45_w2_depth2.md R223, R225). -/
theorem State.xorBase_runs (h : s.IbufReady) (hd : Reg.dist ∈ s.written) (hfit : s.ipos ≤ s.size) :
    Act.Runs (s.xorBase d) := by
  unfold State.xorBase
  cases d.xorBase with
  | const v => exact .ok trivial
  | previous =>
    refine .run (State.rd_ok h.ipos) (.require fun h2 => ?_)
    have h2 : 2 ≤ s.ipos := of_decide_eq_true h2
    exact .run (State.getIbuf_ok h (by omega)) (.run (State.getIbuf_ok h (by omega)) (.ok trivial))
  | atDistance =>
    refine (State.needSource_safe h hd).bind ?_
    rintro _ ⟨rfl, h1, h2⟩
    exact .run (State.getIbuf_ok h (by omega)) (.ite (fun _ => .run rfl (.ok trivial)) fun hne =>
      .run (State.getIbuf_ok h (by omega)) (.ok trivial))
  | impl id =>
    exact .run (State.rd_ok h.ipos) (.run (State.rd_ok hd) (.run (State.rd_ok h.ibuf) (.ok trivial)))

/-! ### Going on -/

theorem State.d2Next_runs (h : s.IbufReady) : Act.Runs s.d2Next := by
  refine .run (State.rd_ok h.size) (.run (State.rd_ok h.ipos) (.ite (fun _ => .ok trivial) fun _ =>
    .ite (fun _ => .ok trivial) fun _ => State.startW2D1_runs h.dims ?_ (Nat.le_refl _)))
  simp [State.memHas, State.has, h.ibuf, h.size]

theorem State.valueDone_runs (h : s.IbufReady) (strip : Strip) (j : Nat) : Act.Runs (s.valueDone strip j) :=
  .ite (fun _ => .ok trivial) fun _ => State.d2Next_runs h

/-! ### The meanings -/

theorem exec_d2Strip1_faultless {i : Instr} (hs : s.seq.stage = .d2Strip1) (h : s.D2Ready d) (hfit : 16 ≤ s.size)
    (hi : Format.d2Strip1.admits i = true) : Faultless (exec i s) := by
  cases i with
  | d2Strip1 q =>
    refine .finish (.run (State.d2Here_ok hs h) ((State.skipBytes_safe 4 h.d2l).bind fun t ht => ?_))
    have hr := ht.d2Ready h
    have hlen : 0 + (bytes32 q).length ≤ t.size := by
      rw [ht.keeps State.size]
      exact Nat.le_trans (by simp [bytes32]) hfit
    exact .run (State.putIbufBytes_ok hr.ibuf hr.size (.inr hlen)) (.ok trivial)
  | _ => cases hi

theorem exec_d2Dist_faultless {strip : Strip} {j : Nat} {i : Instr} (hs : s.seq.stage = .d2Dist strip j)
    (h : s.D2Ready d) (hi : (Format.d2Dist d.distIfClear d.distIfSet).admits i = true) : Faultless (exec i s) := by
  cases i with
  | d2Dist flag update =>
    show Faultless (execD2Dist flag update s)
    unfold execD2Dist
    rw [hs]
    refine .finish (.run h.coding ((State.skipBits_safe 1 h.d2b).bind fun t ht => ?_))
    have hdist := ht.byteLive h.d2dist
    cases update with
    | keep =>
      have hop : (if flag then d.distIfSet else d.distIfClear) = .keep := beq_iff_eq.mp hi
      simp only [hop]
      exact .run rfl (.ok trivial)
    | byte v =>
      have hop : (if flag then d.distIfSet else d.distIfClear) = .byte := beq_iff_eq.mp hi
      simp only [hop]
      exact (State.skipBytes_safe 1 hdist).bind fun _ _ => .run rfl (.ok trivial)
    | half v =>
      have hop : (if flag then d.distIfSet else d.distIfClear) = .half := beq_iff_eq.mp hi
      simp only [hop]
      exact (State.skipBytes_safe 2 hdist).bind fun _ _ => .run rfl (.ok trivial)
  | _ => cases hi

theorem exec_d2Value_faultless {strip : Strip} {j : Nat} {i : Instr} (hs : s.seq.stage = .d2Value strip j)
    (h : s.D2Ready d) (hfit : s.ipos + 2 ≤ s.size) (hi : (Format.d2Value (kindCode d strip j)).admits i = true) :
    Faultless (exec i s) := by
  cases i with
  | d2Value code payload =>
    show Faultless (execD2Value code payload s)
    unfold execD2Value
    rw [hs]
    refine .finish (.run h.coding ((State.skipBits_safe _ h.d2b).bind fun t ht => ?_))
    have hr := ht.d2Ready h
    have hfit : t.ipos + 2 ≤ t.size := by
      rw [ht.keeps State.ipos, ht.keeps State.size]
      exact hfit
    cases payload with
    | backref =>
      exact .expect hi ((State.appendBack_safe hr.toIbufReady hr.dist hfit).bind fun _ hu => State.valueDone_runs hu _ _)
    | xor key =>
      refine .expect hi ((State.skipBytes_safe 1 hr.d2key).bind fun u hu => ?_)
      have hr := hu.d2Ready hr
      rw [← hu.keeps State.ipos, ← hu.keeps State.size] at hfit
      split
      · exact .raise
      · exact (State.xorBase_runs hr.toIbufReady hr.dist (by omega)).bind fun base _ =>
          (State.appendIbuf_safe hr.toIbufReady (by simpa [bytes16] using hfit)).bind fun _ hv =>
            State.valueDone_runs hv _ _
    | lit v =>
      refine .expect hi ((State.skipBytes_safe 2 hr.d2l).bind fun u hu => ?_)
      have hr := hu.d2Ready hr
      rw [← hu.keeps State.ipos, ← hu.keeps State.size] at hfit
      exact (State.appendIbuf_safe hr.toIbufReady (by simpa [bytes16] using hfit)).bind fun _ hv =>
        State.valueDone_runs hv _ _
  | _ => cases hi

theorem exec_d2Sel_faultless {i : Instr} (hs : s.seq.stage = .d2Sel) (h : s.D2Ready d)
    (hi : (Format.d2StripSel d.selector).admits i = true) : Faultless (exec i s) := by
  cases i with
  | d2StripSel code kind =>
    exact .finish (.run (State.d2Here_ok hs h) (.expect hi ((State.skipBits_safe _ h.d2b).bind fun _ _ => .ok trivial)))
  | _ => cases hi

/-- Literal bytes of the strip cursor, then the next strip. -/
theorem State.literalBytes_runs {bs : List Byte} (n : Nat) (h : s.D2Ready d) (hfit : s.ipos + bs.length ≤ s.size) :
    Act.Runs (do let s ← s.skipBytes .d2l n; let s ← s.appendIbuf bs; s.d2Next) := by
  refine (State.skipBytes_safe n h.d2l).bind fun t ht => ?_
  have hr := ht.d2Ready h
  rw [← ht.keeps State.ipos, ← ht.keeps State.size] at hfit
  exact (State.appendIbuf_safe hr.toIbufReady hfit).bind fun _ hu => State.d2Next_runs hu

theorem exec_d2Body_faultless {kind : StripKind} {i : Instr} (hs : s.seq.stage = .d2Body kind) (h : s.D2Ready d)
    (hfit : s.ipos + 16 ≤ s.size) (hi : (Format.d2Body kind d.maskInBits).admits i = true) : Faultless (exec i s) := by
  have hhere := State.d2Here_ok hs h
  cases kind with
  | verb =>
    cases i with
    | d2Verb bytes =>
      have hlen : bytes.length = 16 := beq_iff_eq.mp hi
      exact .finish (.run hhere (.expect hi (State.literalBytes_runs 16 h (by rw [hlen]; exact hfit))))
    | _ => cases hi
  | back =>
    cases i with
    | d2Back =>
      exact .finish (.run hhere ((State.appendBack_safe h.toIbufReady h.dist hfit).bind fun _ ht => State.d2Next_runs ht))
    | _ => cases hi
  | strip2 =>
    cases i with
    | d2Strip2 fromBits mask =>
      exact .finish (.run hhere (.expect hi (.ite
        (fun _ => (State.skipBits_safe 8 h.d2b).bind fun _ _ => .ok trivial)
        fun _ => (State.skipBytes_safe 1 h.d2mask).bind fun _ _ => .ok trivial)))
    | _ => cases hi

theorem exec_d2Tail_faultless {i : Instr} (hs : s.seq.stage = .d2Tail) (h : s.D2Ready d) (hlt : s.ipos < s.size)
    (hle : s.size < s.ipos + 16) (hi : (Format.d2Tail (s.size - s.ipos)).admits i = true) : Faultless (exec i s) := by
  cases i with
  | d2Tail bytes =>
    have hlen : bytes.length = s.size - s.ipos := beq_iff_eq.mp hi
    refine .finish (.run (State.d2Here_ok hs h) (.run (State.rd_ok h.size) (.run (State.rd_ok h.ipos)
      (.expect ?_ (State.literalBytes_runs _ h (by omega))))))
    simp only [Instr.wf, Bool.and_eq_true, beq_iff_eq, decide_eq_true_eq]
    omega
  | _ => cases hi

/-! ### What the next symbol's format needs -/

theorem State.valueStreams_runs (h : s.D2Ready d) (code : PrefixCode ValueKind) : Act.Runs (s.valueStreams code) := by
  refine (State.peekBits_runs _ h.d2b).bind fun bits _ => ?_
  split
  · exact (State.peekBytes_runs 1 h.d2key).bind fun _ _ => .ok trivial
  · exact (State.peekBytes_runs 2 h.d2l).bind fun _ _ => .ok trivial
  · exact .ok trivial

theorem State.distBytes_runs (h : s.D2Ready d) (ifClear ifSet : DistOp) (bits : List Bool) :
    Act.Runs (s.distBytes ifClear ifSet bits) := by
  unfold State.distBytes
  split
  · exact .ok trivial
  · exact State.peekBytes_runs 2 h.d2dist

theorem State.bodyStreams_runs (h : s.D2Ready d) (kind : StripKind) (maskInBits : Bool) :
    Act.Runs (s.streams (.d2Body kind maskInBits)) := by
  cases kind with
  | verb => exact (State.peekBytes_runs 16 h.d2l).bind fun _ _ => .ok trivial
  | back => exact .ok trivial
  | strip2 =>
    exact .ite (fun _ => (State.peekBits_runs 8 h.d2b).bind fun _ _ => .ok trivial)
      fun _ => (State.peekBytes_runs 1 h.d2mask).bind fun _ _ => .ok trivial

end

/-! ## The orchestrator -/

section

variable {s t : State}

theorem State.hostDuties_runs (hd : Reg.dims ∈ s.written) : Act.Runs s.hostDuties :=
  .run (State.dims_ok hd) (.ite (fun _ => .refuse) fun _ => .ite (fun _ => .refuse) fun _ => .ok trivial)

theorem State.orchestrate_runs (h : s.HeaderFacts 17) : Act.Runs s.orchestrate := by
  have hd := h.dims (by decide)
  have hcd := h.flagsCD (by decide)
  exact .run (State.dims_ok hd) (.require fun _ => (State.hostDuties_runs hd).bind fun _ _ =>
    .run (State.needRegs_written (by simp [hcd])) (.ite (fun _ => .refuse) fun _ => .ok trivial))

/-- Everything that `OUT` is made of has been written (46_orchestrator.md R255). -/
theorem State.outNeeds_written (h : s.HeaderFacts 17) : ∀ r ∈ outNeeds s.hdr, r ∈ s.written := by
  have hab := h.flagsAB (by decide)
  have halpha (ht : s.hdr.transparency = true) : Reg.alphaBytes ∈ s.written :=
    h.alphaBytes (by decide) (by simp [h.alphaField_eq (by decide), ht])
  have hanim (ha : s.hdr.animated = true) : Reg.anim ∈ s.written ∧ Reg.isFirst ∈ s.written :=
    ⟨h.anim (by decide) ha, h.isFirst (by decide) ha⟩
  intro r hr
  simp only [outNeeds, List.mem_append, List.mem_ite_nil_right, List.mem_cons, List.not_mem_nil,
    or_false] at hr
  rcases hr with (rfl | ⟨ht, rfl⟩) | ⟨ha, rfl | rfl⟩
  · exact hab
  · exact halpha ht
  · exact (hanim ha).1
  · exact (hanim ha).2

/-- Everything that says what the samples mean has been written (P15). -/
theorem State.meaningNeeds_written (h : s.HeaderFacts 17) : ∀ r ∈ meaningNeeds s.hdr, r ∈ s.written := by
  intro r hr
  simp only [meaningNeeds, List.mem_append, List.mem_ite_nil_right, List.mem_cons,
    List.not_mem_nil, or_false] at hr
  rcases hr with rfl | ⟨hi, rfl | rfl⟩
  · exact h.flagsCD (by decide)
  · exact h.colorCount (by decide) hi
  · exact h.dataEnd (by decide)

theorem State.complete_runs (h : s.HeaderFacts 17) : Act.Runs s.complete := by
  have hd := h.dims (by decide)
  exact .run (State.dims_ok hd) (.run (State.needRegs_written (State.outNeeds_written h))
    (.run (State.needRegs_written (State.meaningNeeds_written h)) ((State.hostDuties_runs hd).bind fun _ _ => .ok trivial)))

theorem State.partialFrame_runs (h : s.HeaderFacts 17) (ha : Reg.rsA9LL ∈ s.written) (hdt : Reg.dt ∈ s.written) :
    Act.Runs s.partialFrame := by
  have hd := h.dims (by decide)
  refine .run (State.dims_ok hd) (.run (State.needRegs_written (by simp [ha, hdt, h.dataEnd (by decide)])) ?_)
  split
  · exact .refuse
  · split
    · exact .raise
    · exact .run (State.fillRect_ok hd (Nat.zero_add _).le (Nat.zero_add _).le) (.ok trivial)

/-! ### Dispatch -/

/-- The branch that the header selects (46_orchestrator.md R259). -/
def State.branch (s : State) : Format :=
  .dispatch s.hdr.extraException s.hdr.animated (s.hdr.animated && s.hdr.isFirst) (s.hdr.encoderMode == s.cfg.w2Mode)
    s.hdr.depth

theorem State.dispatchFormat_ok (h : s.HeaderFacts 17) : s.dispatchFormat = .ok s.branch := by
  have hab : s.needRegs [.flagsAB] = .ok () := State.needRegs_written (by simp [h.flagsAB (by decide)])
  cases ha : s.hdr.animated with
  | false => simp [State.dispatchFormat, hab, ha, State.branch]
  | true => simp [State.dispatchFormat, hab, ha, State.branch, State.rd_ok (h.isFirst (by decide) ha)]

theorem State.expectBranch_ok {i : Instr} (hs : s.seq.stage = .dispatch) (h : s.HeaderFacts 17)
    (hi : s.branch.admits i = true) : s.expectBranch i = .ok () := by
  simp [State.expectBranch, hs, State.dispatchFormat_ok h, hi]

theorem State.buildA9LL_runs (hh : Reg.headerSize ∈ s.written) (hde : Reg.dataEnd ∈ s.written) :
    Act.Runs s.buildA9LL :=
  .run (State.rd_ok hh) (.run (State.rd_ok hde) (.require fun _ => .require fun _ => .ok trivial))

/-- Entering a family's unit, then its reader set and the delta table. -/
theorem State.enterA9LL_runs (h : s.HeaderFacts 17) (u : SeqUnit) (f : Pixels) :
    Act.Runs (do let t ← (s.enterUnit u f).buildA9LL; .ok (t.goto .table)) :=
  (State.buildA9LL_runs (s := s.enterUnit u f) (h.headerSize (by decide)) (h.dataEnd (by decide))).bind fun _ _ =>
    .ok trivial

theorem execDispatchW2D1_faultless (hs : s.seq.stage = .dispatch) (h : s.HeaderFacts 17)
    (hi : s.branch.admits .dispatchW2D1 = true) : Faultless (execDispatchW2D1 s) :=
  .finish (.run (State.expectBranch_ok hs h hi)
    (.run (State.needRegs_written (by simp [h.headerSize (by decide), h.dataEnd (by decide)]))
      (State.startW2D1_runs (s := s.enterUnit .w2d1 []) (h.dims (by decide)) rfl (h.dataEnd_le (by decide)))))

theorem State.buildW2D2_safe {d : D2Coding} (hd : Reg.dims ∈ s.written) (hh : Reg.headerSize ∈ s.written)
    (hde : Reg.dataEnd ∈ s.written) : Act.Safe (s.buildW2D2 d) fun x => Reg.dims ∈ x.2.written := by
  refine .run (State.rd_ok hh) (.run (State.rd_ok hde) ?_)
  split
  · exact .raise
  · exact .require fun _ => .ok (State.mem_mark_of_mem hd)

theorem State.coding_runs : Act.Runs s.coding := by
  unfold State.coding
  split
  · exact .ok trivial
  · exact .refuse

theorem execDispatchW2D2_faultless (hs : s.seq.stage = .dispatch) (h : s.HeaderFacts 17)
    (hi : s.branch.admits .dispatchW2D2 = true) : Faultless (execDispatchW2D2 s) := by
  have hbuild (d : D2Coding) : Act.Safe ((s.enterUnit .w2d2 []).buildW2D2 d) fun x => Reg.dims ∈ x.2.written :=
    State.buildW2D2_safe (h.dims (by decide)) (h.headerSize (by decide)) (h.dataEnd (by decide))
  unfold execDispatchW2D2
  refine .finish (.run (State.expectBranch_ok hs h hi) ?_)
  refine State.coding_runs.bind fun d _ => (hbuild d).bind ?_
  rintro ⟨size, t⟩ hd
  dsimp -zeta only
  refine .require fun _ => ?_
  extract_lets s1 s2 s3 s4
  have hd1 : Reg.dims ∈ s1.written := State.mem_mark_of_mem hd
  have hz1 : Reg.size ∈ s1.written := State.mem_mark_self
  clear_value s1
  have hd2 : Reg.dims ∈ s2.written := State.mem_mark_of_mem hd1
  have hz2 : Reg.size ∈ s2.written := State.mem_mark_of_mem hz1
  have hi2 : Reg.ibuf ∈ s2.written := State.mem_mark_self
  clear_value s2
  have h3 : s3.IbufReady :=
    ⟨State.mem_mark_of_mem hd2, State.mem_mark_of_mem hz2, State.mem_mark_of_mem hi2, State.mem_mark_self⟩
  clear_value s3
  have h4 : s4.IbufReady :=
    ⟨State.mem_mark_of_mem h3.dims, State.mem_mark_of_mem h3.size, State.mem_mark_of_mem h3.ibuf,
      State.mem_mark_of_mem h3.ipos⟩
  clear_value s4
  exact .ite (fun _ => .ok trivial) fun _ => State.d2Next_runs h4

/-- The six dispatch branches. -/
theorem Format.admits_dispatch {extra animated first modeOk : Bool} {depth : Half} {i : Instr}
    (h : (Format.dispatch extra animated first modeOk depth).admits i = true) :
    i = .dispatchExtra ∨ i = .dispatchIntra ∨ i = .dispatchInter ∨ i = .dispatchMode ∨ i = .dispatchW2D1 ∨
      i = .dispatchW2D2 := by
  cases extra with
  | true => cases i with
    | dispatchExtra => simp
    | _ => cases h
  | false => cases animated with
    | true => cases first with
      | true => cases i with
        | dispatchIntra => simp
        | _ => cases h
      | false => cases i with
        | dispatchInter => simp
        | _ => cases h
    | false => cases modeOk with
      | false => cases i with
        | dispatchMode => simp
        | _ => cases h
      | true => cases i with
        | dispatchW2D1 => simp
        | dispatchW2D2 => simp
        | _ => cases h

theorem exec_dispatch_faultless {i : Instr} (hs : s.seq.stage = .dispatch) (h : s.HeaderFacts 17)
    (hi : s.branch.admits i = true) : Faultless (exec i s) := by
  have hhere := State.expectBranch_ok hs h hi
  have hd := State.dims_ok (h.dims (by decide))
  rcases Format.admits_dispatch hi with rfl | rfl | rfl | rfl | rfl | rfl
  · exact .finish (.run hhere .raise)
  · exact .finish (.run hhere (.run hd (.ite (fun _ => .refuse) fun _ => State.enterA9LL_runs h _ _)))
  · exact .finish (.run hhere (.run hd (.require fun _ => State.enterA9LL_runs h _ _)))
  · exact .finish (.run hhere .raise)
  · exact execDispatchW2D1_faultless hs h hi
  · exact execDispatchW2D2_faultless hs h hi

/-! ### Host commands -/

theorem exec_command_faultless {i : Instr} (hi : Format.command.admits i = true) : Faultless (exec i s) := by
  cases i with
  | decode packet stride cap =>
    exact .finish (.ite (fun _ => .refuse) fun _ => .ite (fun _ => .refuse) fun _ => .ok trivial)
  | reset => exact .finish (.ite (fun _ => .refuse) fun _ => .ok trivial)
  | _ => cases hi

end

/-! ## No step of the invariant faults -/

section

variable {s : State}

/-- A step that fetches: its format is known, its cursors may be read, and no instruction of the format faults. -/
theorem State.runNext_faultless {f : Format} (hf : s.format = .ok f) (hst : Act.Runs (s.streams f))
    (hi : ∀ i, f.admits i = true → Faultless (exec i s.issue)) : Faultless s.runNext := by
  have hfetch : Act.Safe s.fetch fun i => f.admits i = true := by
    refine .run hf (hst.bind fun st _ => ?_)
    cases hdec : decode f st with
    | error r => exact .raise
    | ok i => exact .ok ((decode_admits st f).apply i hdec)
  unfold State.runNext
  cases hx : s.fetch with
  | ok i => exact hi i (hfetch.apply i hx)
  | error e => exact .finish (hx ▸ hfetch).of_error

/-- While a DECODE runs, no command leaves the queue. -/
theorem State.issue_busy (hs : s.seq.stage ≠ .idle) : s.issue = s := if_neg hs

/-- The step of a running DECODE that fetches a symbol. -/
theorem State.symbol_faultless {f : Format} (hs : s.seq.stage ≠ .idle) (hf : s.format = .ok f)
    (hst : Act.Runs (s.streams f)) (hi : ∀ i, f.admits i = true → Faultless (exec i s)) : Faultless s.runNext :=
  State.runNext_faultless hf hst (by rwa [State.issue_busy hs])

/-! ### The stages of an A9LL frame -/

theorem State.intraFrame_iff : s.intraFrame = true ↔ s.a9Built = true ∧ wholeTiles s.fw s.fh = true := by
  simp [State.intraFrame]

theorem State.interFrameOk_iff : s.interFrameOk = true ↔ s.a9Built = true ∧ s.refUsable = true := by
  simp [State.interFrameOk]

theorem State.sub3Ok_iff : s.sequenceOk .sub3 = true ↔ s.mbFull = true ∧ s.mvInside = true := by
  simp [State.sequenceOk]

/-- The delta table waits for its reader set, in a frame of any kind. -/
theorem State.table_facts (hs : s.seq.stage = .table) (h : s.stageOk = true) :
    s.HeaderFacts 17 ∧ s.a9Built = true := by
  simp only [State.stageOk, hs, Bool.and_eq_true] at h
  obtain ⟨⟨hh, -⟩, hu⟩ := h
  refine ⟨State.headerFacts hh, ?_⟩
  split at hu
  · exact (State.interFrameOk_iff.mp (Bool.and_eq_true_iff.mp hu).1).1
  · split at hu
    · exact (Bool.and_eq_true_iff.mp hu).1
    · exact (Bool.and_eq_true_iff.mp hu).1

theorem State.table_faultless (hs : s.seq.stage = .table) (h : s.stageOk = true) : Faultless s.runNext := by
  obtain ⟨hh, ha⟩ := State.table_facts hs h
  have hr := State.a9Ready (hh.dims (by decide)) ha
  have hn : s.needRegs [.flagsAB] = .ok () := State.needRegs_written (by simp [hh.flagsAB (by decide)])
  have hf : s.format = .ok (.table s.hdr.dynamicTable) := by simp [State.format, hs, hn]
  refine State.symbol_faultless (by simp [hs]) hf ?_ fun i hi => exec_table_faultless hs hr hh hi
  exact .ite (fun _ => (State.peekBytes_runs 1536 hr.tabc).bind fun _ _ => .ok trivial) fun _ => .ok trivial

theorem State.tile_faultless (hs : s.seq.stage = .tile) (h : s.stageOk = true) : Faultless s.runNext := by
  simp only [State.stageOk, hs, Bool.and_eq_true] at h
  obtain ⟨⟨⟨hh, hintra⟩, -⟩, hvalid⟩ := h
  obtain ⟨ha, hw⟩ := State.intraFrame_iff.mp hintra
  have hr := State.a9Ready ((State.headerFacts hh).dims (by decide)) ha
  have hf : s.format = .ok .tile2 := by simp [State.format, hs]
  exact State.symbol_faultless (by simp [hs]) hf (State.modeStreams_runs hr 2) fun i hi =>
    exec_tile2_faultless hs hr (State.tileFits_frame hw hvalid) hi

theorem State.mbFormat_ok (hd : Reg.dims ∈ s.written) : s.mbFormat = .ok (if s.mbFull then .mb16 else .mbEdge) := by
  unfold State.mbFormat
  rw [State.dims_ok hd]
  rfl

theorem State.mb_faultless (hs : s.seq.stage = .mb) (h : s.stageOk = true) : Faultless s.runNext := by
  simp only [State.stageOk, hs, Bool.and_eq_true] at h
  obtain ⟨⟨⟨hh, hinter⟩, -⟩, -⟩ := h
  obtain ⟨ha, href⟩ := State.interFrameOk_iff.mp hinter
  have hr := State.a9Ready ((State.headerFacts hh).dims (by decide)) ha
  have hf : s.format = s.mbFormat := by simp [State.format, hs]
  rw [State.mbFormat_ok hr.dims] at hf
  cases hm : s.mbFull with
  | true =>
    rw [hm] at hf
    exact State.symbol_faultless (by simp [hs]) hf ((State.peekBits_runs 18 hr.bit1).bind fun _ _ => .ok trivial)
      fun i hi => exec_mb16_faultless hs hr href hm hi
  | false =>
    rw [hm] at hf
    exact State.symbol_faultless (by simp [hs]) hf ((State.peekBits_runs 1 hr.bit1).bind fun _ _ => .ok trivial)
      fun i hi => exec_mbEdge_faultless hs hr hm hi

theorem State.mvCopy_faultless (hs : s.seq.stage = .mvCopy) (h : s.stageOk = true) : Faultless s.runNext := by
  simp only [State.stageOk, hs, Bool.and_eq_true] at h
  obtain ⟨⟨⟨⟨hh, hinter⟩, -⟩, -⟩, hseq⟩ := h
  obtain ⟨ha, href⟩ := State.interFrameOk_iff.mp hinter
  obtain ⟨hm, hmv⟩ := State.sub3Ok_iff.mp hseq
  have hr := State.a9Ready ((State.headerFacts hh).dims (by decide)) ha
  have hf : s.format = .ok .mvCopy := by simp [State.format, hs]
  exact State.symbol_faultless (by simp [hs]) hf ((State.peekBits_runs 1 hr.bit1).bind fun _ _ => .ok trivial)
    fun i hi => exec_mvCopy_faultless hs hr href hm hmv hi

theorem State.gate_faultless {k : SubKind} (hs : s.seq.stage = .gate k) (h : s.stageOk = true) :
    Faultless s.runNext := by
  simp only [State.stageOk, hs, Bool.and_eq_true] at h
  obtain ⟨⟨⟨⟨hh, -⟩, -⟩, -⟩, -⟩ := h
  have hf : s.format = .ok .gate := by simp [State.format, hs]
  exact State.symbol_faultless (by simp [hs]) hf (.ok trivial) fun i hi =>
    exec_gate_faultless hs (State.headerFacts hh) hi

/-- A cell of an edge macroblock: a whole one is a `SUB2` symbol, a partly visible one literals (43_a9ll_inter.md R187). -/
theorem State.cell_faultless (hs : s.seq.stage = .sub .cells) (hr : s.A9Ready)
    (hv : cellVisible s.fw s.fh (s.tileAt (.within .cells)) = true) : Faultless s.runNext := by
  have hf : s.format = s.cellFormat := by simp [State.format, hs]
  rw [State.cellFormat_ok hr.dims] at hf
  cases hfit : s.tileFits (.within .cells) with
  | true =>
    rw [hfit] at hf
    exact State.symbol_faultless (by simp [hs]) hf (State.modeStreams_runs hr 2) fun i hi =>
      exec_sub2_faultless (State.sub2Here_cells hs hr.dims hfit) hr hfit hi
  | false =>
    rw [hfit] at hf
    exact State.symbol_faultless (by simp [hs]) hf ((State.peekBytes_runs _ hr.edgelit).bind fun _ _ => .ok trivial)
      fun i hi => exec_litCell_faultless hs hr hv hfit hi

theorem State.sub_faultless {k : SubKind} (hs : s.seq.stage = .sub k) (hsb : s.seq.s ≤ 15) (h : s.stageOk = true) :
    Faultless s.runNext := by
  simp only [State.stageOk, hs, Bool.and_eq_true] at h
  obtain ⟨⟨⟨⟨⟨hh, hinter⟩, -⟩, -⟩, hseq⟩, hv⟩ := h
  obtain ⟨ha, href⟩ := State.interFrameOk_iff.mp hinter
  have hr := State.a9Ready ((State.headerFacts hh).dims (by decide)) ha
  cases k with
  | sub3 =>
    obtain ⟨hm, hmv⟩ := State.sub3Ok_iff.mp hseq
    have hf : s.format = .ok .sub3 := by simp [State.format, hs]
    exact State.symbol_faultless (by simp [hs]) hf (State.modeStreams_runs hr 3) fun i hi =>
      exec_sub3_faultless hs hr href (State.tileFits_sub hm hsb) (State.mvInside_iff.mp hmv).1 hi
  | sub2 =>
    have hf : s.format = .ok .sub2 := by simp [State.format, hs]
    exact State.symbol_faultless (by simp [hs]) hf (State.modeStreams_runs hr 2) fun i hi =>
      exec_sub2_faultless (State.sub2Here_sub2 hs) hr (State.tileFits_sub hseq hsb) hi
  | cells => exact State.cell_faultless hs hr hv

/-! ### The pixels of a tile -/

/-- P8 gives every position of a tile a mask bit (42_a9ll_intra.md R148). -/
theorem State.maskHere_some (hc : s.cfg.wf = true) (hp : s.seq.p ≤ 15) : ∃ set, s.maskHere = some set := by
  simp only [Config.wf, Bool.and_eq_true, beq_iff_eq] at hc
  obtain ⟨⟨-, hlen⟩, -⟩ := hc
  have hlt : s.seq.p < s.cfg.maskBit.length := by omega
  exact ⟨s.mask.getLsbD s.cfg.maskBit[s.seq.p].val, by simp [State.maskHere, hlt]⟩

theorem State.maskBit_ok {set : Bool} (hm : Reg.mask ∈ s.written) (h : s.maskHere = some set) :
    s.maskBit s.seq.p = .ok set := by
  obtain ⟨i, hi, rfl⟩ := Option.map_eq_some_iff.mp h
  simp [State.maskBit, State.rd_ok hm, hi]

/-- The vector keeps every pixel of its macroblock inside the reference (43_a9ll_inter.md R173, R174, R183). -/
theorem State.predReady_refMv (href : s.refUsable = true) (hmv : s.mvInside = true) (hsb : s.seq.s ≤ 15)
    (hp : s.seq.p ≤ 15) (k : SubKind) :
    s.predReady .refMv (s.pixelAt (.within k)).1 (s.pixelAt (.within k)).2 = true := by
  obtain ⟨hw, hin⟩ := State.mvInside_iff.mp hmv
  rw [inside_iff] at hin
  have hpix : inside s.fw s.fh ((s.pixelAt (.within k)).1 + s.mv.x) ((s.pixelAt (.within k)).2 + s.mv.y) 1 1 = true := by
    rw [inside_iff]
    simp only [State.pixelAt, State.tileAt_sub]
    omega
  simp [State.predReady, State.has, hw, href, hpix]

/-- What a predicted tile of a sub-block sequence needs of its predictor: the reference ones are `SUB3`'s. -/
theorem State.predReady_within {pr : Predictor} {k : SubKind} (href : s.refUsable = true)
    (hseq : s.sequenceOk k = true) (hpr : (match pr with | .dir _ => true | _ => k == .sub3) = true)
    (hsb : s.seq.s ≤ 15) (hp : s.seq.p ≤ 15) :
    s.predReady pr (s.pixelAt (.within k)).1 (s.pixelAt (.within k)).2 = true := by
  cases pr with
  | dir d => rfl
  | ref => exact href
  | refMv =>
    obtain rfl : k = .sub3 := beq_iff_eq.mp hpr
    exact State.predReady_refMv href (State.sub3Ok_iff.mp hseq).2 hsb hp _

theorem State.atPixel_faultless {pr : Predictor} {k : TileKind} {set : Bool} (hs : s.seq.stage = .pixel pr k)
    (h : s.AtPixel pr k set) (hm : Reg.mask ∈ s.written) (hset : s.maskHere = some set) : Faultless s.runNext := by
  have hf : s.format = .ok (.pixel set) := by simp [State.format, hs, State.maskBit_ok hm hset]
  refine State.symbol_faultless (by simp [hs]) hf ?_ fun i hi => exec_pixel_faultless h hi
  exact .ite (fun _ => .ok trivial) fun _ => State.pixelStreams_runs h.ready

theorem State.pixel_faultless {pr : Predictor} {k : TileKind} (hs : s.seq.stage = .pixel pr k) (hc : s.cfg.wf = true)
    (hsb : s.seq.s ≤ 15) (hp : s.seq.p ≤ 15) (hdt : s.dt.length = 511) (h : s.stageOk = true) :
    Faultless s.runNext := by
  obtain ⟨set, hset⟩ := State.maskHere_some hc hp
  have stands (hd : Reg.dims ∈ s.written) (hm : Reg.mask ∈ s.written) (hf : s.tileFits k = true) :
      s.pixelStands pr k set = true := by
    simp [State.pixelStands, hs, State.has, hd, hm, hp, hf, hset]
  cases k with
  | frame =>
    simp only [State.stageOk, hs, Bool.and_eq_true, State.has_cons] at h
    obtain ⟨⟨⟨⟨hh, hintra⟩, hdtw, hm, -⟩, hvalid⟩, hpr⟩ := h
    obtain ⟨ha, hw⟩ := State.intraFrame_iff.mp hintra
    have hr := State.a9Ready ((State.headerFacts hh).dims (by decide)) ha
    have hpred : s.predReady pr (s.pixelAt .frame).1 (s.pixelAt .frame).2 = true := by
      cases pr with
      | dir d => rfl
      | ref => cases hpr
      | refMv => cases hpr
    exact State.atPixel_faultless hs ⟨hr, stands hr.dims hm (State.tileFits_frame hw hvalid), hpred, hdtw, hdt⟩ hm hset
  | within k =>
    simp only [State.stageOk, hs, Bool.and_eq_true, State.has_cons] at h
    obtain ⟨⟨⟨⟨⟨⟨hh, hinter⟩, hdtw, hm, -⟩, -⟩, hseq⟩, hfit⟩, hpr⟩ := h
    obtain ⟨ha, href⟩ := State.interFrameOk_iff.mp hinter
    have hr := State.a9Ready ((State.headerFacts hh).dims (by decide)) ha
    have hpred := State.predReady_within href hseq hpr hsb hp
    exact State.atPixel_faultless hs ⟨hr, stands hr.dims hm hfit, hpred, hdtw, hdt⟩ hm hset

/-! ### The stages of a W2 frame -/

theorem State.w2Index_faultless (hs : s.seq.stage = .w2Index) (h : s.stageOk = true) : Faultless s.runNext := by
  simp only [State.stageOk, hs, Bool.and_eq_true] at h
  obtain ⟨hh, hw⟩ := h
  have hr := State.w2Ready ((State.headerFacts hh).dims (by decide)) hw
  have hf : s.format = .ok .value := by simp [State.format, hs]
  refine State.symbol_faultless (by simp [hs]) hf ?_ fun i hi => exec_value_faultless hs hr hi
  exact (State.bytesLeft_runs hr.idx).bind fun left _ => (State.peekBytes_runs left hr.idx).bind fun _ _ => .ok trivial

theorem State.w2Sym_faultless {idx : Nat} (hs : s.seq.stage = .w2Sym idx) (h : s.stageOk = true) :
    Faultless s.runNext := by
  simp only [State.stageOk, hs, Bool.and_eq_true] at h
  obtain ⟨hh, hw⟩ := h
  have hr := State.w2Ready ((State.headerFacts hh).dims (by decide)) hw
  have hf : s.format = .ok (.w2Sym idx) := by simp [State.format, hs]
  refine State.symbol_faultless (by simp [hs]) hf ?_ fun i hi => exec_w2Sym_faultless hs hr hi
  exact .ite (fun _ => (State.peekBytes_runs 4 hr.lit).bind fun _ _ => .ok trivial) fun _ =>
    (State.bytesLeft_runs hr.run).bind fun left _ => (State.peekBytes_runs left hr.run).bind fun _ _ => .ok trivial

/-- What every depth-2 control point gives: the header is done and `W2.D2` runs. -/
theorem State.d2_facts (hh : s.headerUpTo 17 = true) (hd : s.d2Running = true) : ∃ d, s.D2Ready d :=
  State.d2Ready ((State.headerFacts hh).dims (by decide)) hd

theorem State.d2Strip1_faultless (hs : s.seq.stage = .d2Strip1) (h : s.stageOk = true) : Faultless s.runNext := by
  simp only [State.stageOk, hs, Bool.and_eq_true, decide_eq_true_eq] at h
  obtain ⟨⟨hh, hrun⟩, hfit⟩ := h
  obtain ⟨d, hr⟩ := State.d2_facts hh hrun
  have hf : s.format = .ok .d2Strip1 := by simp [State.format, hs]
  exact State.symbol_faultless (by simp [hs]) hf ((State.peekBytes_runs 4 hr.d2l).bind fun _ _ => .ok trivial)
    fun i hi => exec_d2Strip1_faultless hs hr hfit hi

theorem State.d2Dist_faultless {strip : Strip} {j : Nat} (hs : s.seq.stage = .d2Dist strip j) (h : s.stageOk = true) :
    Faultless s.runNext := by
  simp only [State.stageOk, hs, Bool.and_eq_true] at h
  obtain ⟨⟨hh, hrun⟩, -⟩ := h
  obtain ⟨d, hr⟩ := State.d2_facts hh hrun
  have hf : s.format = .ok (.d2Dist d.distIfClear d.distIfSet) := by simp [State.format, hs, hr.coding]
  refine State.symbol_faultless (by simp [hs]) hf ?_ fun i hi => exec_d2Dist_faultless hs hr hi
  exact (State.peekBits_runs 1 hr.d2b).bind fun bits _ => (State.distBytes_runs hr _ _ bits).bind fun _ _ => .ok trivial

theorem State.d2Value_faultless {strip : Strip} {j : Nat} (hs : s.seq.stage = .d2Value strip j)
    (h : s.stageOk = true) : Faultless s.runNext := by
  simp only [State.stageOk, hs, Bool.and_eq_true, State.stripFits, decide_eq_true_eq] at h
  obtain ⟨⟨hh, hrun⟩, hj, hfit⟩ := h
  obtain ⟨d, hr⟩ := State.d2_facts hh hrun
  have hf : s.format = .ok (.d2Value (kindCode d strip j)) := by simp [State.format, hs, hr.coding]
  exact State.symbol_faultless (by simp [hs]) hf (State.valueStreams_runs hr _) fun i hi =>
    exec_d2Value_faultless hs hr (by omega) hi

theorem State.d2Sel_faultless (hs : s.seq.stage = .d2Sel) (h : s.stageOk = true) : Faultless s.runNext := by
  simp only [State.stageOk, hs, Bool.and_eq_true] at h
  obtain ⟨⟨hh, hrun⟩, -⟩ := h
  obtain ⟨d, hr⟩ := State.d2_facts hh hrun
  have hf : s.format = .ok (.d2StripSel d.selector) := by simp [State.format, hs, hr.coding]
  exact State.symbol_faultless (by simp [hs]) hf ((State.peekBits_runs _ hr.d2b).bind fun _ _ => .ok trivial)
    fun i hi => exec_d2Sel_faultless hs hr hi

theorem State.d2Body_faultless {kind : StripKind} (hs : s.seq.stage = .d2Body kind) (h : s.stageOk = true) :
    Faultless s.runNext := by
  simp only [State.stageOk, hs, Bool.and_eq_true, decide_eq_true_eq] at h
  obtain ⟨⟨hh, hrun⟩, hfit⟩ := h
  obtain ⟨d, hr⟩ := State.d2_facts hh hrun
  have hf : s.format = .ok (.d2Body kind d.maskInBits) := by simp [State.format, hs, hr.coding]
  exact State.symbol_faultless (by simp [hs]) hf (State.bodyStreams_runs hr kind _) fun i hi =>
    exec_d2Body_faultless hs hr hfit hi

theorem State.d2Tail_faultless (hs : s.seq.stage = .d2Tail) (h : s.stageOk = true) : Faultless s.runNext := by
  simp only [State.stageOk, hs, Bool.and_eq_true, decide_eq_true_eq] at h
  obtain ⟨⟨⟨hh, hrun⟩, hlt⟩, hle⟩ := h
  obtain ⟨d, hr⟩ := State.d2_facts hh hrun
  have hf : s.format = .ok (.d2Tail (s.size - s.ipos)) := by
    simp [State.format, hs, State.rd_ok hr.size, State.rd_ok hr.ipos]
  exact State.symbol_faultless (by simp [hs]) hf ((State.peekBytes_runs _ hr.d2l).bind fun _ _ => .ok trivial)
    fun i hi => exec_d2Tail_faultless hs hr hlt hle hi

/-! ### The header, the dispatch and the host's commands -/

theorem State.hdr_faultless {k : HdrStep} (hs : s.seq.stage = .hdr k) (h : s.stageOk = true) : Faultless s.runNext := by
  simp only [State.stageOk, hs, Bool.and_eq_true] at h
  obtain ⟨hh, ht⟩ := h
  have hat : s.AtHdr k := ⟨hs, State.headerFacts hh, ht⟩
  have hf : s.format = .ok (.hdr k s.hdr.legacy s.hdr.ninePatch) := by
    simp [State.format, hs, State.needRegs_written (State.hdrFormat_written hat)]
  exact State.symbol_faultless (by simp [hs]) hf (.ok trivial) fun i hi => exec_hdr_faultless hat hi

theorem State.dispatch_faultless (hs : s.seq.stage = .dispatch) (h : s.HeaderFacts 17) : Faultless s.runNext := by
  have hf : s.format = .ok s.branch := by simp [State.format, hs, State.dispatchFormat_ok h]
  exact State.symbol_faultless (by simp [hs]) hf (.ok trivial) fun i hi => exec_dispatch_faultless hs h hi

theorem State.idle_faultless (hs : s.seq.stage = .idle) : Faultless s.runNext :=
  State.runNext_faultless (f := .command) (by simp [State.format, hs]) (.ok trivial) fun _ hi => exec_command_faultless hi

/-- No step from a state of the invariant faults. -/
theorem step_faultless (h : s.inv = true) : Faultless (step s) := by
  simp only [State.inv, Bool.and_eq_true, decide_eq_true_eq] at h
  obtain ⟨⟨⟨⟨⟨⟨hc, -⟩, -⟩, hsb⟩, hp⟩, hdt⟩, hok⟩ := h
  have upTo (he : s.stageOk = s.headerUpTo 17) : s.HeaderFacts 17 := State.headerFacts (he ▸ hok)
  unfold step
  cases hs : s.seq.stage with
  | idle =>
    simp only
    split
    · nofun
    · exact State.idle_faultless hs
  | hdr k => exact State.hdr_faultless hs hok
  | orchestrate => exact .finish (State.orchestrate_runs (upTo (by simp [State.stageOk, hs])))
  | dispatch => exact State.dispatch_faultless hs (upTo (by simp [State.stageOk, hs]))
  | table => exact State.table_faultless hs hok
  | partialFrame =>
    simp only [State.stageOk, hs, Bool.and_eq_true, State.partialOk, State.a9Built, State.has_cons] at hok
    obtain ⟨⟨hh, ⟨⟨⟨⟨ha, -⟩, -⟩, -⟩, -⟩, -⟩, hdtw, -⟩ := hok
    exact .finish (State.partialFrame_runs (State.headerFacts hh) ha hdtw)
  | tile => exact State.tile_faultless hs hok
  | mb => exact State.mb_faultless hs hok
  | mvCopy => exact State.mvCopy_faultless hs hok
  | gate k => exact State.gate_faultless hs hok
  | sub k => exact State.sub_faultless hs hsb hok
  | pixel pr k => exact State.pixel_faultless hs hc hsb hp hdt hok
  | w2Index => exact State.w2Index_faultless hs hok
  | w2Sym idx => exact State.w2Sym_faultless hs hok
  | d2Strip1 => exact State.d2Strip1_faultless hs hok
  | d2Dist strip j => exact State.d2Dist_faultless hs hok
  | d2Value strip j => exact State.d2Value_faultless hs hok
  | d2Sel => exact State.d2Sel_faultless hs hok
  | d2Body kind => exact State.d2Body_faultless hs hok
  | d2Tail => exact State.d2Tail_faultless hs hok
  | complete => exact .finish (State.complete_runs (upTo (by simp [State.stageOk, hs])))

end

/-- Settles O55: at each control point the invariant gives all that the next symbol's reads, writes and registers need
(`step_faultless`). -/
theorem noFault : Obligations.NoFault := by
  unfold Obligations.NoFault
  intro s h f
  exact step_faultless h f

end Sys2Proof.Machine

namespace Sys2Proof

/-- A host command is admitted by the format of the host's commands only. -/
theorem Format.eq_command_of_isCommand {f : Format} {i : Instr} (h : f.admits i = true) (hi : i.isCommand = true) :
    f = .command := by
  cases i with
  | decode packet stride cap =>
    cases f with
    | command => rfl
    | hdr k legacy ninePatch => cases k <;> cases legacy <;> cases h
    | dispatch extra animated first modeOk depth =>
      cases extra <;> cases animated <;> cases first <;> cases modeOk <;> cases h
    | table dynamic => cases dynamic <;> cases h
    | pixel maskBit => cases maskBit <;> cases h
    | d2Body kind maskInBits => cases kind <;> cases h
    | _ => cases h
  | reset => exact Format.eq_command_of_reset h
  | _ => cases hi

end Sys2Proof

namespace Sys2Proof.Machine

open Sys2Proof

/-! ## What a fetched instruction is -/

section

variable {s t : State}

/-- The instruction that is fetched is one of the format at which the sequencer stands. -/
theorem State.fetch_yields (s : State) : Yields s.fetch fun i => ∃ f, s.format = .ok f ∧ f.admits i = true := by
  refine ⟨fun i h => ?_⟩
  obtain ⟨f, hf, h⟩ := Act.bind_eq_ok.mp h
  obtain ⟨st, -, h⟩ := Act.bind_eq_ok.mp h
  cases hdec : decode f st with
  | error r => rw [hdec] at h; cases h
  | ok j =>
    rw [hdec] at h
    cases h
    exact ⟨f, hf, (decode_admits st f).apply _ hdec⟩

/-- While a DECODE runs, the instruction that is fetched is no host command. -/
theorem State.fetch_not_command (hs : s.seq.stage ≠ .idle) : Yields s.fetch fun i => i.isCommand = false := by
  refine ⟨fun i h => ?_⟩
  obtain ⟨f, hf, hi⟩ := s.fetch_yields.apply i h
  exact Bool.eq_false_iff.mpr fun hc => (State.format_yields hs).apply f hf (Format.eq_command_of_isCommand hi hc)

/-- A step of a running DECODE that fetches: an instruction of its format runs, or an error is raised. -/
theorem State.runNext_busy (hs : s.seq.stage ≠ .idle) (h : s.runNext = .next t) :
    (∃ i f, s.format = .ok f ∧ f.admits i = true ∧ i.isCommand = false ∧ exec i s = .next t) ∨ ∃ e, t = s.fail e := by
  unfold State.runNext at h
  split at h
  · rename_i i hi
    obtain ⟨f, hf, hadm⟩ := s.fetch_yields.apply i hi
    rw [State.issue_busy hs] at h
    exact .inl ⟨i, f, hf, hadm, (State.fetch_not_command hs).apply i hi, h⟩
  · obtain ht | ⟨e, -, ht⟩ := finish_eq_next.mp h
    · cases ht
    · exact .inr ⟨e, ht⟩

end

/-! ## The packet -/

section

variable {s t : State}

/-- A rule that keeps the outer items keeps the packet, whether or not it raises an error. -/
theorem Act.Keeps.finish_packet {a : Act State} (ha : Act.Keeps s a) (h : finish s a = .next t) :
    t.pkt = s.pkt ∧ t.len = s.len := by
  rcases ha.finish_next h with ht | ⟨e, rfl⟩
  · exact ⟨congrArg Outer.pkt ht, congrArg Outer.len ht⟩
  · exact ⟨rfl, rfl⟩

theorem State.complete_packet (h : s.complete = .ok t) : t.pkt = s.pkt ∧ t.len = s.len := by
  obtain ⟨⟨w, ht⟩, -, h⟩ := Act.bind_eq_ok.mp h
  obtain ⟨-, -, h⟩ := Act.bind_eq_ok.mp h
  obtain ⟨-, -, h⟩ := Act.bind_eq_ok.mp h
  obtain ⟨-, -, h⟩ := Act.bind_eq_ok.mp h
  cases h
  exact ⟨rfl, rfl⟩

theorem State.runNext_packet (hs : s.seq.stage ≠ .idle) (h : s.runNext = .next t) : t.pkt = s.pkt ∧ t.len = s.len := by
  obtain ⟨i, f, -, -, hi, h⟩ | ⟨e, rfl⟩ := State.runNext_busy hs h
  · obtain ⟨a, ha, hk⟩ := exec_keeps i s hi
    exact hk.finish_packet (ha ▸ h)
  · exact ⟨rfl, rfl⟩

/-- No step of a DECODE changes the packet (20_memory.md R50). -/
theorem step_packet (hs : s.seq.stage ≠ .idle) (h : step s = .next t) : t.pkt = s.pkt ∧ t.len = s.len := by
  unfold step at h
  split at h
  · exact s.orchestrate_keeps.finish_packet h
  · exact s.partialFrame_keeps.finish_packet h
  · obtain ht | ⟨e, -, rfl⟩ := finish_eq_next.mp h
    · exact State.complete_packet ht
    · exact ⟨rfl, rfl⟩
  · exact absurd ‹_› hs
  · exact State.runNext_packet hs h

end

end Sys2Proof.Machine

namespace Sys2Proof

theorem Yields.mono {ε α : Type} {a : Except ε α} {P Q : α → Prop} (h : Yields a P) (hPQ : ∀ x, P x → Q x) :
    Yields a Q :=
  ⟨fun x hx => hPQ x (h.apply x hx)⟩

end Sys2Proof

namespace Sys2Proof.Machine

open Sys2Proof

/-! ## What a read answers -/

section

variable {s t u : State}

/-- A bit read that answers had its bits, and moves its cursor past them (41_readers.md R130, R132). -/
theorem State.skipBits_eq_ok {id : BitCur} {n : Nat} (h : s.skipBits id n = .ok t) :
    n ≤ (s.bitCur id).avail ∧ t = s.setBitCur ((s.bitCur id).after n) id := by
  obtain ⟨⟨v, u⟩, hu, ⟨⟩⟩ := Act.bind_eq_ok.mp h
  obtain ⟨c, hc, hu⟩ := Act.bind_eq_ok.mp hu
  obtain ⟨⟨w, c'⟩, hr, ⟨⟩⟩ := Act.bind_eq_ok.mp hu
  obtain ⟨c, hc, hw⟩ := Act.bind_eq_ok.mp hc
  obtain ⟨-, rfl⟩ := State.rd_eq_ok.mp hc
  obtain ⟨-, -, ⟨⟩⟩ := Act.bind_eq_ok.mp hw
  by_cases hn : n ≤ (s.bitCur id).avail
  · rw [BitCursor.read_ok hn] at hr
    cases hr
    exact ⟨hn, rfl⟩
  · rw [BitCursor.read_short (Nat.lt_of_not_le hn)] at hr
    cases hr

/-- A byte read that answers had its bytes, and moves its cursor past them (41_readers.md R134, R138). -/
theorem State.skipBytes_eq_ok {id : ByteCur} {n : Nat} (h : s.skipBytes id n = .ok t) :
    ∃ c, s.byteCur id = .ok c ∧ n ≤ c.avail ∧ t = s.setByteCur (c.after n) id := by
  obtain ⟨⟨v, u⟩, hu, ⟨⟩⟩ := Act.bind_eq_ok.mp h
  obtain ⟨c, hc, hu⟩ := Act.bind_eq_ok.mp hu
  obtain ⟨⟨w, c'⟩, hr, ⟨⟩⟩ := Act.bind_eq_ok.mp hu
  obtain ⟨c, hc, hw⟩ := Act.bind_eq_ok.mp hc
  obtain ⟨-, -, ⟨⟩⟩ := Act.bind_eq_ok.mp hw
  by_cases hn : n ≤ c.avail
  · rw [ByteCursor.read_ok hn] at hr
    cases hr
    exact ⟨c, hc, hn, rfl⟩
  · rw [ByteCursor.read_short (Nat.lt_of_not_le hn)] at hr
    cases hr

/-- `t` is `s` after reads that their cursors could deliver: each cursor that stood inside its region still does. -/
structure Reads (s t : State) : Prop extends AfterRead s t where
  bit_inside : ∀ id, s.bitInside (s.bitCur id) = true → s.bitInside (t.bitCur id) = true
  a9_inside : s.bankInside s.a9 = true → s.bankInside t.a9 = true
  idx_inside : s.byteInside s.idx = true → s.byteInside t.idx = true
  lit_inside : s.byteInside s.lit = true → s.byteInside t.lit = true
  d2_inside : s.bankInside s.d2 = true → s.bankInside t.d2 = true

theorem Reads.trans (h : Reads s t) (h' : Reads t u) : Reads s u where
  toAfterRead := h.toAfterRead.trans h'.toAfterRead
  bit_inside id hc := h.keeps State.bitInside ▸ h'.bit_inside id (h.keeps State.bitInside ▸ h.bit_inside id hc)
  a9_inside hc := h.keeps State.bankInside ▸ h'.a9_inside (h.keeps State.bankInside ▸ h.a9_inside hc)
  idx_inside hc := h.keeps State.byteInside ▸ h'.idx_inside (h.keeps State.byteInside ▸ h.idx_inside hc)
  lit_inside hc := h.keeps State.byteInside ▸ h'.lit_inside (h.keeps State.byteInside ▸ h.lit_inside hc)
  d2_inside hc := h.keeps State.bankInside ▸ h'.d2_inside (h.keeps State.bankInside ▸ h.d2_inside hc)

theorem State.bitInside_iff {c : BitCursor} :
    s.bitInside c = true ↔
      c.mem = .packet ∧ c.start ≤ c.stop ∧ c.stop ≤ s.len ∧ c.bitpos ≤ 8 * (c.stop - c.start) := by
  simp [State.bitInside, and_assoc]

theorem State.byteInside_iff {c : ByteCursor} :
    s.byteInside c = true ↔ c.start ≤ c.pos ∧ c.pos ≤ c.stop ∧ s.holds c.mem c.stop = true := by
  simp [State.byteInside, and_assoc]

theorem State.bitInside_after {c : BitCursor} {n : Nat} (hn : n ≤ c.avail) (h : s.bitInside c = true) :
    s.bitInside (c.after n) = true := by
  obtain ⟨hmem, hregion, hlen, hpos⟩ := State.bitInside_iff.mp h
  refine State.bitInside_iff.mpr ⟨hmem, hregion, hlen, ?_⟩
  simp only [BitCursor.after, BitCursor.avail] at *
  omega

theorem State.byteInside_after {c : ByteCursor} {n : Nat} (hn : n ≤ c.avail) (h : s.byteInside c = true) :
    s.byteInside (c.after n) = true := by
  obtain ⟨hlo, hhi, hmem⟩ := State.byteInside_iff.mp h
  simp only [ByteCursor.avail] at hn
  exact State.byteInside_iff.mpr ⟨Nat.le_add_right_of_le hlo, by simp only [ByteCursor.after]; omega, hmem⟩

theorem State.bankInside_set {b : ByteBank} {p : Phys} {n : Nat} (hn : n ≤ (b.get p).avail)
    (h : s.bankInside b = true) : s.bankInside (b.set ((b.get p).after n) p) = true := by
  have hp : s.byteInside ((b.get p).after n) = true := State.byteInside_after hn (State.bankInside_get h p)
  simp only [State.bankInside, Bool.and_eq_true] at h
  obtain ⟨⟨⟨h0, h1⟩, h2⟩, h3⟩ := h
  cases p <;> simp only [ByteBank.set, State.bankInside, Bool.and_eq_true] <;> simp only [*, and_self]

/-- The reads after which a cursor stands inside its region, by the cursor that moved. -/
theorem reads_setBitCur {id : BitCur} {n : Nat} (hn : n ≤ (s.bitCur id).avail) :
    Reads s (s.setBitCur ((s.bitCur id).after n) id) where
  toAfterRead := afterRead_setBitCur s id n
  bit_inside id' h := by
    cases id <;> cases id'
    case bit1.bit1 | bit2.bit2 | d2b.d2b => exact State.bitInside_after hn h
    all_goals exact h
  a9_inside h := by cases id <;> exact h
  idx_inside h := by cases id <;> exact h
  lit_inside h := by cases id <;> exact h
  d2_inside h := by cases id <;> exact h

theorem reads_a9 {p : Phys} {n : Nat} (hn : n ≤ (s.a9.get p).avail) :
    Reads s { s with a9 := s.a9.set ((s.a9.get p).after n) p } :=
  ⟨afterRead_a9 s p n, fun id h => by cases id <;> exact h, State.bankInside_set hn, id, id, id⟩

theorem reads_d2 {p : Phys} {n : Nat} (hn : n ≤ (s.d2.get p).avail) :
    Reads s { s with d2 := s.d2.set ((s.d2.get p).after n) p } :=
  ⟨afterRead_d2 s p n, fun id h => by cases id <;> exact h, id, id, id, State.bankInside_set hn⟩

theorem reads_idx {n : Nat} (hn : n ≤ s.idx.avail) : Reads s { s with idx := s.idx.after n } :=
  ⟨afterRead_idx s n, fun id h => by cases id <;> exact h, id, State.byteInside_after hn, id, id⟩

theorem reads_lit {n : Nat} (hn : n ≤ s.lit.avail) : Reads s { s with lit := s.lit.after n } :=
  ⟨afterRead_lit s n, fun id h => by cases id <;> exact h, id, id, State.byteInside_after hn, id⟩

theorem reads_setByteCur {id : ByteCur} {c : ByteCursor} {n : Nat} (hc : s.byteCur id = .ok c) (hn : n ≤ c.avail) :
    Reads s (s.setByteCur (c.after n) id) := by
  cases id with
  | header => cases hc
  | maskc | litc | tabc | edgelit =>
    obtain ⟨-, rfl⟩ := State.rd_eq_ok.mp hc
    exact reads_a9 hn
  | idx =>
    obtain ⟨-, rfl⟩ := State.rd_eq_ok.mp hc
    exact reads_idx hn
  | lit =>
    obtain ⟨-, rfl⟩ := State.rd_eq_ok.mp hc
    exact reads_lit hn
  | run =>
    simp only [State.byteCur, State.setByteCur] at hc ⊢
    split at hc
    · obtain ⟨-, rfl⟩ := State.rd_eq_ok.mp hc
      exact reads_idx hn
    · obtain ⟨-, rfl⟩ := State.rd_eq_ok.mp hc
      exact reads_lit hn
  | d2l | d2dist | d2key | d2mask =>
    obtain ⟨d, hd, hc⟩ := Act.bind_eq_ok.mp hc
    obtain ⟨-, rfl⟩ := State.rd_eq_ok.mp hc
    simp only [State.setByteCur, State.setByteCur.setPhys, State.coding_eq_ok.mp hd]
    exact reads_d2 hn

theorem State.skipBits_yields (s : State) (id : BitCur) (n : Nat) : Yields (s.skipBits id n) (Reads s) := by
  refine ⟨fun t ht => ?_⟩
  obtain ⟨hn, rfl⟩ := State.skipBits_eq_ok ht
  exact reads_setBitCur hn

theorem State.skipBytes_yields (s : State) (id : ByteCur) (n : Nat) : Yields (s.skipBytes id n) (Reads s) := by
  refine ⟨fun t ht => ?_⟩
  obtain ⟨c, hc, hn, rfl⟩ := State.skipBytes_eq_ok ht
  exact reads_setByteCur hc hn

end

/-! ## Emitted pixels -/

section

variable {s t u : State}

/-- `t` is `s` after emitted pixels: `F` and `K` have changed, and `K` has not passed `N` (44_w2_depth1.md R207). -/
structure Emitted (s t : State) : Prop where
  rest : t = { s with frame := t.frame, k := t.k }
  frame : Store.wf s.frame = true → Store.wf t.frame = true
  k_le : s.k ≤ s.n → t.k ≤ s.n

theorem Emitted.refl (s : State) : Emitted s s := ⟨rfl, id, id⟩

theorem Emitted.trans (h : Emitted s t) (h' : Emitted t u) : Emitted s u where
  rest := by
    calc u = { t with frame := u.frame, k := u.k } := h'.rest
      _ = { { s with frame := t.frame, k := t.k } with frame := u.frame, k := u.k } :=
        congrArg (fun v : State => { v with frame := u.frame, k := u.k }) h.rest
      _ = { s with frame := u.frame, k := u.k } := rfl
  frame := h'.frame ∘ h.frame
  k_le hk := by
    have hn : t.n = s.n := by rw [h.rest]
    have ht : t.k ≤ t.n := hn ▸ h.k_le hk
    exact hn ▸ h'.k_le ht

theorem State.putPixel_eq_ok {x y : Nat} {v : Half} (h : s.putPixel x y v = .ok t) :
    t = { s with frame := Store.set s.frame (pixKey x y) v } := by
  obtain ⟨⟨w, ht⟩, -, h⟩ := Act.bind_eq_ok.mp h
  dsimp only at h
  split at h
  · cases h
    rfl
  · cases h

theorem State.emit_yields (s : State) (v : Half) : Yields (s.emit v) (Emitted s) := by
  refine .bind (Q := (· = s.k)) ⟨fun k hk => (State.rd_eq_ok.mp hk).2.symm⟩ ?_
  rintro _ rfl
  refine .bind (Q := (· = s.n)) ⟨fun n hn => (State.rd_eq_ok.mp hn).2.symm⟩ ?_
  rintro _ rfl
  refine .value fun ⟨w, _⟩ => .ite (fun hk => ?_) fun _ => .ok (.refl s)
  refine .bind (Q := fun t => t = { s with frame := Store.set s.frame (pixKey (s.k % w) (s.k / w)) v })
    ⟨fun t ht => State.putPixel_eq_ok ht⟩ ?_
  rintro _ rfl
  exact .ok ⟨rfl, Store.wf_set _ _, fun _ => hk⟩

theorem State.emitPair_yields (s : State) (q : Word) : Yields (s.emitPair q) (Emitted s) :=
  .bind (s.emit_yields _) fun t ht => (t.emit_yields _).mono fun _ hu => ht.trans hu

theorem State.emitPairs_yields (s : State) (q : Word) (n : Nat) : Yields (State.emitPairs q n s) (Emitted s) := by
  induction n generalizing s with
  | zero => exact .ok (.refl s)
  | succ n ih => exact .bind (s.emitPair_yields q) fun t ht => (ih t).mono fun _ hu => ht.trans hu

end
end Sys2Proof.Machine

namespace Sys2Proof.Machine

open Sys2Proof

/-! ## `IBUF` in the depth-1 pass -/

/-- `IBUF` and `S`. -/
def State.buffer (s : State) : Memory × Nat := (s.ibuf, s.size)

/-- The outcome leaves `IBUF` and `S` as `s` has them. -/
def KeepsBuffer (s : State) (o : Host.Outcome State Fault Refusal) : Prop := ∀ t, o = .next t → t.buffer = s.buffer

section

variable {s t : State}

theorem KeepsBuffer.finish {a : Act State} (ha : Yields a fun t => t.buffer = s.buffer) : KeepsBuffer s (finish s a) := by
  intro t h
  obtain ht | ⟨e, -, rfl⟩ := finish_eq_next.mp h
  · exact ha.apply t ht
  · rfl

theorem Emitted.buffer (h : Emitted s t) : t.buffer = s.buffer := by rw [h.rest]; rfl

theorem Reads.buffer (h : Reads s t) : t.buffer = s.buffer := h.keeps State.buffer

theorem State.w2Next_yields (s : State) : Yields s.w2Next fun t => t = { s with seq := t.seq } :=
  .value fun _ => .value fun _ => .ite (fun _ => .ok rfl) fun _ => .value fun _ => .ite (fun _ => .ok rfl) fun _ => .ok rfl

theorem State.w2Next_buffer (s : State) : Yields s.w2Next fun t => t.buffer = s.buffer :=
  s.w2Next_yields.mono fun t ht => by rw [ht]; rfl

theorem execValue_buffer (v : Nat) : KeepsBuffer s (execValue v s) :=
  .finish (.value fun _ => .bind (s.skipBytes_yields .idx _) fun _ ht => .ok ht.buffer)

theorem execW2Lit_buffer (q : Word) : KeepsBuffer s (execW2Lit q s) :=
  .finish (.value fun _ => .bind (s.skipBytes_yields .lit 4) fun t ht => .bind (t.emitPair_yields q) fun u hu =>
    u.w2Next_buffer.mono fun _ hv => hv.trans (hu.buffer.trans ht.buffer))

theorem execW2Run_buffer (idx run : Nat) : KeepsBuffer s (execW2Run idx run s) :=
  .finish (.value fun _ => .value fun _ => .value fun _ => .value fun _ =>
    .bind (State.skipBytes_yields _ .run _) fun _ ht => .value fun _ => .value fun _ =>
      .bind (State.emitPairs_yields _ _ _) fun u hu => u.w2Next_buffer.mono fun _ hv =>
        hv.trans (hu.buffer.trans ht.buffer))

/-- The symbols of the depth-1 pass write neither `IBUF` nor `S`. -/
theorem exec_w2_buffer {f : Format} {i : Instr} (hf : f = .value ∨ ∃ idx, f = .w2Sym idx) (hi : f.admits i = true) :
    KeepsBuffer s (exec i s) := by
  obtain rfl | ⟨idx, rfl⟩ := hf
  · cases i with
    | value v => exact execValue_buffer v
    | _ => cases hi
  · cases i with
    | w2Lit q => exact execW2Lit_buffer q
    | w2Run j run => exact execW2Run_buffer j run
    | _ => cases hi

/-- No step of the depth-1 pass changes `IBUF` (20_memory.md R64). -/
theorem step_w2_buffer (hs : s.seq.stage = .w2Index ∨ ∃ idx, s.seq.stage = .w2Sym idx) (h : step s = .next t) :
    t.buffer = s.buffer := by
  have hrun : step s = s.runNext := by obtain hs | ⟨idx, hs⟩ := hs <;> simp [step, hs]
  have hbusy : s.seq.stage ≠ .idle := by obtain hs | ⟨idx, hs⟩ := hs <;> simp [hs]
  obtain ⟨i, f, hf, hi, -, h⟩ | ⟨e, rfl⟩ := State.runNext_busy hbusy (hrun ▸ h)
  · refine exec_w2_buffer ?_ hi t h
    obtain hs | ⟨idx, hs⟩ := hs
    · simp only [State.format, hs, Except.ok.injEq] at hf
      exact .inl hf.symm
    · simp only [State.format, hs, Except.ok.injEq] at hf
      exact .inr ⟨idx, hf.symm⟩
  · rfl

end

/-- Settles O58: a running DECODE fetches no host command (`step_packet`), and what the depth-1 pass fetches writes pixels
and moves cursors only (`step_w2_buffer`). -/
theorem bitstreamUnwritten : Obligations.BitstreamUnwritten := by
  unfold Obligations.BitstreamUnwritten
  intro s t h
  refine ⟨fun hs => step_packet hs h, fun hs => ?_⟩
  have hbuf := step_w2_buffer hs h
  exact ⟨congrArg Prod.fst hbuf, congrArg Prod.snd hbuf⟩

end Sys2Proof.Machine

namespace Sys2Proof.Machine

open Sys2Proof

/-! ## The invariant, part by part -/

/-- What the invariant says at every control point: admissible parameters, canonical memories, `SEQ` and `DT` in range. -/
structure State.Sound (s : State) : Prop where
  cfg : s.cfg.wf = true
  canonical : s.canonical = true
  s_le : s.seq.s ≤ 15
  p_le : s.seq.p ≤ 15
  dt_length : s.dt.length = 511

/-- A sound state in which a DECODE runs. -/
structure State.Busy (s : State) : Prop extends s.Sound where
  busy : s.status.phase = .busy

/-- The outcome meets the invariant, if it is a next state. -/
def MeetsInv (o : Host.Outcome State Fault Refusal) : Prop := ∀ t, o = .next t → t.inv = true

section

variable {s t : State}

theorem State.inv_iff :
    s.inv = true ↔ s.Sound ∧ (s.status.phase = .busy ↔ s.seq.stage ≠ .idle) ∧ s.stageOk = true := by
  have hphase : (decide (s.status.phase = .busy) == decide (s.seq.stage ≠ .idle)) = true ↔
      (s.status.phase = .busy ↔ s.seq.stage ≠ .idle) := by
    rw [beq_iff_eq, decide_eq_decide]
  simp only [State.inv, Bool.and_eq_true, hphase, decide_eq_true_eq]
  constructor
  · rintro ⟨⟨⟨⟨⟨⟨hcfg, hcan⟩, hphase⟩, hs⟩, hp⟩, hdt⟩, hok⟩
    exact ⟨⟨hcfg, hcan, hs, hp, hdt⟩, hphase, hok⟩
  · rintro ⟨⟨hcfg, hcan, hs, hp, hdt⟩, hphase, hok⟩
    exact ⟨⟨⟨⟨⟨⟨hcfg, hcan⟩, hphase⟩, hs⟩, hp⟩, hdt⟩, hok⟩

theorem State.stageOk_idle (hs : s.seq.stage = .idle) : s.stageOk = true := by simp [State.stageOk, hs]

/-- With no DECODE running, a sound state meets the invariant. -/
theorem State.Sound.inv_idle (h : s.Sound) (hphase : s.status.phase ≠ .busy) (hs : s.seq.stage = .idle) :
    s.inv = true :=
  State.inv_iff.mpr ⟨h, by simp [hphase, hs], State.stageOk_idle hs⟩

/-- A running DECODE at a control point whose facts hold meets the invariant. -/
theorem State.Busy.inv (h : s.Busy) (hs : s.seq.stage ≠ .idle) (hok : s.stageOk = true) : s.inv = true :=
  State.inv_iff.mpr ⟨h.toSound, by simp [h.busy, hs], hok⟩

theorem State.Busy.of_inv (h : s.inv = true) (hs : s.seq.stage ≠ .idle) : s.Busy ∧ s.stageOk = true := by
  obtain ⟨hsound, hphase, hok⟩ := State.inv_iff.mp h
  exact ⟨⟨hsound, hphase.mpr hs⟩, hok⟩

theorem State.canonical_iff :
    s.canonical = true ↔ (Memory.wf s.pkt = true ∧ Memory.wf s.ibuf = true ∧ Store.wf s.frame = true ∧
      Store.wf s.ref.pix = true) ∧ Store.rising 0 s.outBuf = true := by
  simp [State.canonical, and_assoc]

/-- The bytes that a failed DECODE leaves in the output buffer are listed at rising addresses (log 7). -/
theorem Store.rising_foldl_put {n : Nat} (l : List (Nat × BitVec n)) {m : List (Nat × BitVec n)}
    (hm : Store.rising 0 m = true) : Store.rising 0 (l.foldl (fun m e => Store.put m e.1 e.2) m) = true := by
  induction l generalizing m with
  | nil => exact hm
  | cons e l ih => exact ih (Store.rising_put e.2 (Nat.zero_le _) hm)

theorem freeBuffer_rising (cap count : Nat) : Store.rising 0 (freeBuffer cap count) = true :=
  Store.rising_foldl_put _ rfl

/-- A raised error ends the DECODE in a state of the invariant (60_exceptions.md R266). -/
theorem State.Sound.fail_inv (h : s.Sound) (e : Err) : (s.fail e).inv = true := by
  obtain ⟨⟨hpkt, hibuf, -, href⟩, -⟩ := State.canonical_iff.mp h.canonical
  refine State.Sound.inv_idle ⟨h.cfg, ?_, h.s_le, h.p_le, h.dt_length⟩ nofun rfl
  exact State.canonical_iff.mpr ⟨⟨hpkt, hibuf, Store.wf_ofList _, href⟩, freeBuffer_rising _ _⟩

theorem MeetsInv.finish {a : Act State} (h : s.Sound) (ha : Yields a fun t => t.inv = true) :
    MeetsInv (finish s a) := by
  intro t ht
  obtain ht | ⟨e, -, rfl⟩ := finish_eq_next.mp ht
  · exact ha.apply t ht
  · exact h.fail_inv e

/-- The sequencer goes to another control point. -/
theorem State.Busy.seq_inv {q : Seq} (h : s.Busy) (hs : q.s ≤ 15) (hp : q.p ≤ 15) (hq : q.stage ≠ .idle)
    (hok : State.stageOk { s with seq := q } = true) : State.inv { s with seq := q } = true :=
  State.Busy.inv ⟨⟨h.cfg, h.canonical, hs, hp, h.dt_length⟩, h.busy⟩ hq hok

theorem State.Busy.goto_inv {g : Stage} (h : s.Busy) (hg : g ≠ .idle) (hok : (s.goto g).stageOk = true) :
    (s.goto g).inv = true :=
  h.seq_inv h.s_le h.p_le hg hok

theorem expect_yields (b : Bool) : Yields (expect b) fun _ => b = true := ⟨fun _ h => expect_eq_ok.mp h⟩

theorem require_yields (b : Bool) (e : Err) : Yields (require b e) fun _ => b = true := ⟨fun _ h => require_eq_ok.mp h⟩

theorem State.rd_yields {α : Type} (s : State) (r : Reg) (v : α) : Yields (s.rd r v) fun x => r ∈ s.written ∧ x = v :=
  ⟨fun _ h => ⟨(State.rd_eq_ok.mp h).1, (State.rd_eq_ok.mp h).2.symm⟩⟩

theorem State.dims_yields (s : State) : Yields s.dims fun x => Reg.dims ∈ s.written ∧ x = (s.fw, s.fh) :=
  s.rd_yields .dims _

end

/-! ## The header front end keeps its facts -/

section

variable {s t : State} {r : Nat}

/-- The header facts, as the invariant writes them. -/
theorem State.HeaderFacts.upTo (h : s.HeaderFacts r) : s.headerUpTo r = true := by
  simp only [State.headerUpTo, Bool.and_eq_true, imp_iff, State.has_cons, State.has_nil, decide_eq_true_eq, beq_iff_eq,
    bne_iff_ne, and_true]
  exact ⟨⟨⟨⟨⟨⟨⟨⟨⟨⟨⟨⟨⟨⟨⟨h.len, h.version⟩, h.rawType⟩, h.flagsAB⟩, fun hr => ⟨⟨h.dims hr, h.w_ne hr⟩, h.h_ne hr⟩⟩,
    h.flagsCD⟩, fun hr => ⟨h.alphaField hr, h.alphaField_eq hr⟩⟩,
    fun hr => ⟨h.alphaRaw hr.1 hr.2, h.alphaLegacy hr.1 hr.2⟩⟩, fun hr => h.anim hr.1 hr.2⟩,
    fun hr => h.isFirst hr.1 hr.2⟩, fun hr => h.alphaBytes hr.1 hr.2⟩, fun hr => h.colorCount hr.1 hr.2⟩,
    fun hr => ⟨h.headerSize hr, h.headerSize_eq hr⟩⟩, fun hr => h.alphaFits hr.1 hr.2⟩,
    fun hr => ⟨h.dataEnd hr, h.dataEnd_le hr⟩⟩, h.qpGate⟩

theorem State.headerFacts_iff : s.HeaderFacts r ↔ s.headerUpTo r = true := ⟨State.HeaderFacts.upTo, State.headerFacts⟩

/-- The header fields that the facts of rank up to `r` speak of are the same. -/
def Header.Agrees (r : Nat) (h h' : Header) : Prop :=
  (3 ≤ r → h'.legacy = h.legacy) ∧ (5 ≤ r → h'.transparency = h.transparency ∧ h'.animated = h.animated) ∧
  (6 ≤ r → h'.w = h.w ∧ h'.h = h.h) ∧ (7 ≤ r → h'.indexColor = h.indexColor) ∧
  (8 ≤ r → h'.alphaField = h.alphaField) ∧ (13 ≤ r → h'.headerSize = h.headerSize) ∧
  (15 ≤ r → h'.alphaBytes = h.alphaBytes) ∧ (16 ≤ r → h'.dataEnd = h.dataEnd)

theorem Header.Agrees.refl (r : Nat) (h : Header) : h.Agrees r h := by simp [Header.Agrees]

/-- The facts hold of every state with the same packet length, at least these registers written, and these fields. -/
theorem State.HeaderFacts.of_agrees (h : s.HeaderFacts r) (hlen : t.len = s.len)
    (hw : ∀ q ∈ s.written, q ∈ t.written) (ha : s.hdr.Agrees r t.hdr) : t.HeaderFacts r := by
  obtain ⟨legacy, flags, dims, indexColor, alphaField, headerSize, alphaBytes, dataEnd⟩ := ha
  constructor
  case len => exact fun hr => hlen ▸ h.len hr
  case w_ne => exact fun hr => (dims hr).1 ▸ h.w_ne hr
  case h_ne => exact fun hr => (dims hr).2 ▸ h.h_ne hr
  case alphaField_eq =>
    intro hr
    rw [alphaField hr, (flags (by omega)).1, (flags (by omega)).2]
    exact h.alphaField_eq hr
  case alphaRaw => exact fun hr haf => hw _ (h.alphaRaw hr (alphaField (by omega) ▸ haf))
  case alphaLegacy =>
    exact fun hr haf hl => hw _ (h.alphaLegacy hr (alphaField (by omega) ▸ haf) (legacy (by omega) ▸ hl))
  case anim => exact fun hr ha => hw _ (h.anim hr ((flags (by omega)).2 ▸ ha))
  case isFirst => exact fun hr ha => hw _ (h.isFirst hr ((flags (by omega)).2 ▸ ha))
  case alphaBytes => exact fun hr haf => hw _ (h.alphaBytes hr (alphaField (by omega) ▸ haf))
  case headerSize_eq =>
    intro hr
    rw [headerSize hr, sizeOfHeader, alphaField (by omega), (flags (by omega)).2]
    exact h.headerSize_eq hr
  case colorCount => exact fun hr hi => hw _ (h.colorCount hr (indexColor (by omega) ▸ hi))
  case alphaFits =>
    intro hr haf
    rw [headerSize (by omega), alphaBytes hr, hlen]
    exact h.alphaFits hr (alphaField (by omega) ▸ haf)
  case dataEnd_le =>
    intro hr
    rw [dataEnd hr, hlen]
    exact h.dataEnd_le hr
  case version => exact fun hr => hw _ (h.version hr)
  case rawType => exact fun hr => hw _ (h.rawType hr)
  case flagsAB => exact fun hr => hw _ (h.flagsAB hr)
  case dims => exact fun hr => hw _ (h.dims hr)
  case flagsCD => exact fun hr => hw _ (h.flagsCD hr)
  case alphaField => exact fun hr => hw _ (h.alphaField hr)
  case headerSize => exact fun hr => hw _ (h.headerSize hr)
  case dataEnd => exact fun hr => hw _ (h.dataEnd hr)
  case qpGate => exact fun hr => hw _ (h.qpGate hr)

/-- What header step `k` establishes (40_header.md R100-R117). -/
def State.hdrFact (s : State) : HdrStep → Prop
  | .len => 12 ≤ s.len
  | .magic => True
  | .version => Reg.version ∈ s.written
  | .rawType => Reg.rawType ∈ s.written
  | .flagsAB => Reg.flagsAB ∈ s.written
  | .dims => Reg.dims ∈ s.written ∧ s.hdr.w ≠ 0 ∧ s.hdr.h ≠ 0
  | .flagsCD => Reg.flagsCD ∈ s.written
  | .alphaPresent => Reg.alphaField ∈ s.written ∧ s.hdr.alphaField = (s.hdr.transparency || s.hdr.animated)
  | .alpha =>
    s.hdr.alphaField = true → Reg.alphaRaw ∈ s.written ∧ (s.hdr.legacy = true → Reg.alphaBytes ∈ s.written)
  | .anim => s.hdr.animated = true → Reg.anim ∈ s.written
  | .first => s.hdr.animated = true → Reg.isFirst ∈ s.written
  | .scale => s.hdr.alphaField = true → Reg.alphaBytes ∈ s.written
  | .size => Reg.headerSize ∈ s.written ∧ s.hdr.headerSize.toNat = sizeOfHeader s.hdr
  | .index => s.hdr.indexColor = true → Reg.colorCount ∈ s.written
  | .xval => s.hdr.alphaField = true → s.hdr.headerSize.toNat + s.hdr.alphaBytes.toNat ≤ s.len
  | .dataEnd => Reg.dataEnd ∈ s.written ∧ s.hdr.dataEnd ≤ s.len
  | .qpGate => Reg.qpGate ∈ s.written

/-- The facts up to step `k`, and what step `k` establishes. -/
theorem State.HeaderFacts.succ {k : HdrStep} (h : s.HeaderFacts (hdrRank k)) (hk : s.hdrFact k) :
    s.HeaderFacts (hdrRank k + 1) := by
  have hup := h.upTo
  rw [State.headerFacts_iff]
  -- At each step the goal is the old conjunction and what the step establishes.
  cases k <;> simp [State.headerUpTo, hdrRank, State.hdrFact, imp_iff, State.has] at hup hk ⊢ <;> tauto

end
end Sys2Proof.Machine

namespace Sys2Proof.Machine

open Sys2Proof

/-! ## The header steps keep the invariant -/

section

variable {s t : State}

theorem State.stageOk_hdr {k : HdrStep} (hs : s.seq.stage = .hdr k) :
    s.stageOk = true ↔ s.HeaderFacts (hdrRank k) ∧ stepTaken s.hdr k = true := by
  simp only [State.stageOk, hs, Bool.and_eq_true, State.headerFacts_iff]

theorem State.stageOk_orchestrate (hs : s.seq.stage = .orchestrate) : s.stageOk = true ↔ s.HeaderFacts 17 := by
  simp only [State.stageOk, hs, State.headerFacts_iff]

theorem State.stageOk_dispatch (hs : s.seq.stage = .dispatch) : s.stageOk = true ↔ s.HeaderFacts 17 := by
  simp only [State.stageOk, hs, State.headerFacts_iff]

theorem State.stageOk_complete (hs : s.seq.stage = .complete) : s.stageOk = true ↔ s.HeaderFacts 17 := by
  simp only [State.stageOk, hs, State.headerFacts_iff]

/-- The facts do not speak of `SEQ`. -/
theorem State.HeaderFacts.setSeq {r : Nat} (h : s.HeaderFacts r) (q : Seq) : State.HeaderFacts { s with seq := q } r :=
  h.of_agrees rfl (fun _ => id) (.refl r s.hdr)

/-- A step that is not taken establishes what it would have established (40_header.md R118). -/
theorem State.HeaderFacts.skip {k : HdrStep} (h : s.HeaderFacts (hdrRank k)) (hk : stepTaken s.hdr k = false) :
    s.HeaderFacts (hdrRank k + 1) := by
  refine h.succ ?_
  cases k with
  | alpha => exact fun ha => absurd ha (Bool.eq_false_iff.mp hk)
  | anim => exact fun ha => absurd ha (Bool.eq_false_iff.mp hk)
  | scale =>
    intro ha
    have hl : s.hdr.legacy = true := by simpa [stepTaken, ha] using hk
    exact h.alphaLegacy (by decide) ha hl
  | index => exact fun hi => absurd hi (Bool.eq_false_iff.mp hk)
  | xval => exact fun ha => absurd ha (Bool.eq_false_iff.mp hk)
  | _ => cases hk

/-- The front end goes to the next step that is taken, whose facts hold (40_header.md R118). -/
theorem State.HeaderFacts.next {k : HdrStep} (h : s.HeaderFacts (hdrRank k + 1)) :
    (s.goto (hdrNext s.hdr k)).stageOk = true := by
  have land {k' : HdrStep} (h : s.HeaderFacts (hdrRank k')) (ht : stepTaken s.hdr k' = true) :
      (s.goto (.hdr k')).stageOk = true := (State.stageOk_hdr rfl).mpr ⟨h.setSeq _, ht⟩
  have toFirst (h : s.HeaderFacts (hdrRank .anim)) :
      (s.goto (if s.hdr.animated then .hdr .anim else .hdr .first)).stageOk = true := by
    split
    · exact land h ‹_›
    · exact land (h.skip (Bool.eq_false_iff.mpr ‹_›)) rfl
  have toDataEnd (h : s.HeaderFacts (hdrRank .xval)) :
      (s.goto (if s.hdr.alphaField then .hdr .xval else .hdr .dataEnd)).stageOk = true := by
    split
    · exact land h ‹_›
    · exact land (h.skip (Bool.eq_false_iff.mpr ‹_›)) rfl
  cases k with
  | alphaPresent =>
    simp only [hdrNext]
    split
    · exact land h ‹_›
    · exact toFirst (State.HeaderFacts.skip (k := .alpha) h (Bool.eq_false_iff.mpr ‹_›))
  | alpha => exact toFirst h
  | first =>
    simp only [hdrNext]
    split
    · exact land h ‹_›
    · exact land (State.HeaderFacts.skip (k := .scale) h (Bool.eq_false_iff.mpr ‹_›)) rfl
  | size =>
    simp only [hdrNext]
    split
    · exact land h ‹_›
    · exact toDataEnd (State.HeaderFacts.skip (k := .index) h (Bool.eq_false_iff.mpr ‹_›))
  | index => exact toDataEnd h
  | qpGate => exact (State.stageOk_orchestrate rfl).mpr (h.setSeq _)
  | _ => exact land h rfl

theorem hdrNext_ne_idle (h : Header) (k : HdrStep) : hdrNext h k ≠ .idle := by
  cases k <;> simp only [hdrNext] <;> (repeat' split) <;> nofun

theorem State.hdrDone_inv {k : HdrStep} (hb : s.Busy) (h : s.HeaderFacts (hdrRank k + 1)) :
    Yields (s.hdrDone k) fun t => t.inv = true :=
  .value fun _ => .ok (hb.goto_inv (hdrNext_ne_idle _ k) h.next)

/-- Writing header fields that no earlier step established, and going on to the next step. -/
theorem State.setHdr_hdrDone_inv {k : HdrStep} {r : Reg} {h' : Header} (hb : s.Busy) (h : s.HeaderFacts (hdrRank k))
    (ha : s.hdr.Agrees (hdrRank k) h') (hf : (s.setHdr r h').hdrFact k) :
    Yields ((s.setHdr r h').hdrDone k) fun t => t.inv = true := by
  refine State.hdrDone_inv ⟨⟨hb.cfg, hb.canonical, hb.s_le, hb.p_le, hb.dt_length⟩, hb.busy⟩ ?_
  exact (h.of_agrees (t := s.setHdr r h') rfl (fun _ => State.mem_mark_of_mem) ha).succ hf

theorem State.mem_setHdr_self {r : Reg} {h : Header} : r ∈ (s.setHdr r h).written := State.mem_mark_self

/-- A header meaning runs only where the front end stands at its step, with what the steps before it established. -/
theorem State.expectHdr_yields (hok : s.stageOk = true) (k : HdrStep) :
    Yields (s.expectHdr k) fun _ => s.HeaderFacts (hdrRank k) ∧ stepTaken s.hdr k = true :=
  (expect_yields _).mono fun _ hs => (State.stageOk_hdr (of_decide_eq_true hs)).mp hok

/-! ### The meanings -/

theorem State.readAlphaModern_inv (hb : s.Busy) (raw : Half) (mode : Byte) (h : s.HeaderFacts (hdrRank .alpha)) :
    Yields (s.readAlphaModern raw mode) fun t => t.inv = true := by
  refine .value fun _ => .bind (expect_yields _) fun _ hl => .value fun _ =>
    State.setHdr_hdrDone_inv hb h (by simp [Header.Agrees, hdrRank]) fun _ => ⟨State.mem_setHdr_self, fun hleg => ?_⟩
  have hleg : s.hdr.legacy = true := hleg
  simp [hleg] at hl

theorem State.scaleAlphaModern_inv (hb : s.Busy) (h : s.HeaderFacts (hdrRank .scale)) :
    Yields s.scaleAlphaModern fun t => t.inv = true := by
  have scaled (later : Bool) : Yields ((s.setHdr .alphaBytes { s.hdr with
      alphaBytes := if later then s.hdr.alphaRaw else 4 * s.hdr.alphaRaw }).hdrDone .scale) fun t => t.inv = true :=
    State.setHdr_hdrDone_inv hb h (by simp [Header.Agrees, hdrRank]) fun _ => State.mem_setHdr_self
  exact .value fun _ => .ite (fun _ => .value fun _ => scaled _) fun _ => .value fun _ => scaled _

/-- The five bits of `header_size` hold the sum of R112. -/
theorem headerSize_toNat (alpha anim : Bool) :
    (12 + (if alpha then 4 else 0) + (if anim then 8 else 0) : BitVec 5).toNat =
      12 + (if alpha then 4 else 0) + (if anim then 8 else 0) := by
  cases alpha <;> cases anim <;> rfl

variable (hb : s.Busy) (hok : s.stageOk = true)

include hb hok

theorem execHdrLen_inv : MeetsInv (execHdrLen s) :=
  .finish hb.toSound (.bind (State.expectHdr_yields hok .len) fun _ ⟨h, _⟩ => .bind (require_yields ..) fun _ hlen =>
    State.hdrDone_inv hb (h.succ (of_decide_eq_true (p := 12 ≤ s.len) hlen)))

theorem execHdrMagic_inv : MeetsInv (execHdrMagic s) :=
  .finish hb.toSound (.bind (State.expectHdr_yields hok .magic) fun _ ⟨h, _⟩ => .value fun _ => .value fun _ =>
    State.hdrDone_inv hb (h.succ trivial))

theorem execHdrVersion_inv (v : Byte) : MeetsInv (execHdrVersion v s) :=
  .finish hb.toSound (.bind (State.expectHdr_yields hok .version) fun _ ⟨h, _⟩ =>
    State.setHdr_hdrDone_inv hb h (by simp [Header.Agrees, hdrRank]) State.mem_setHdr_self)

theorem execHdrRawType_inv (v : Byte) : MeetsInv (execHdrRawType v s) :=
  .finish hb.toSound (.bind (State.expectHdr_yields hok .rawType) fun _ ⟨h, _⟩ => .value fun _ =>
    State.setHdr_hdrDone_inv hb h (by simp [Header.Agrees, hdrRank]) State.mem_setHdr_self)

theorem execHdrFlagsAB_inv (a b : Byte) : MeetsInv (execHdrFlagsAB a b s) :=
  .finish hb.toSound (.bind (State.expectHdr_yields hok .flagsAB) fun _ ⟨h, _⟩ => .value fun _ =>
    State.setHdr_hdrDone_inv hb h (by simp [Header.Agrees, hdrRank, decodeAB]) State.mem_setHdr_self)

theorem execHdrDims_inv (w ht : Half) : MeetsInv (execHdrDims w ht s) := by
  refine .finish hb.toSound (.bind (State.expectHdr_yields hok .dims) fun _ ⟨h, _⟩ =>
    .bind (require_yields ..) fun _ hne => ?_)
  obtain ⟨hw, hh⟩ := Bool.and_eq_true_iff.mp hne
  exact State.setHdr_hdrDone_inv hb h (by simp [Header.Agrees, hdrRank])
    ⟨State.mem_setHdr_self, bne_iff_ne.mp hw, bne_iff_ne.mp hh⟩

theorem execHdrFlagsCD_inv (c d : Byte) : MeetsInv (execHdrFlagsCD c d s) :=
  .finish hb.toSound (.bind (State.expectHdr_yields hok .flagsCD) fun _ ⟨h, _⟩ => .value fun _ =>
    State.setHdr_hdrDone_inv hb h (by simp [Header.Agrees, hdrRank, decodeCD]) State.mem_setHdr_self)

theorem execHdrAlphaPresent_inv : MeetsInv (execHdrAlphaPresent s) :=
  .finish hb.toSound (.bind (State.expectHdr_yields hok .alphaPresent) fun _ ⟨h, _⟩ => .value fun _ =>
    State.setHdr_hdrDone_inv hb h (by simp [Header.Agrees, hdrRank]) ⟨State.mem_setHdr_self, rfl⟩)

theorem execHdrAlphaLegacy_inv (raw : Word) : MeetsInv (execHdrAlphaLegacy raw s) := by
  refine .finish hb.toSound (.bind (State.expectHdr_yields hok .alpha) fun _ ⟨h, _⟩ => .value fun _ => .value fun _ =>
    .value fun _ => ?_)
  have hb' : (s.setHdr .alphaRaw { s.hdr with alphaRaw := raw }).Busy :=
    ⟨⟨hb.cfg, hb.canonical, hb.s_le, hb.p_le, hb.dt_length⟩, hb.busy⟩
  have h' : (s.setHdr .alphaRaw { s.hdr with alphaRaw := raw }).HeaderFacts (hdrRank .alpha) :=
    h.of_agrees rfl (fun _ => State.mem_mark_of_mem) (by simp [Header.Agrees, hdrRank])
  exact State.setHdr_hdrDone_inv hb' h' (by simp [Header.Agrees, hdrRank]) fun _ =>
    ⟨State.mem_mark_of_mem State.mem_setHdr_self, fun _ => State.mem_setHdr_self⟩

theorem execHdrAlphaModern_inv (raw : Half) (mode pad : Byte) : MeetsInv (execHdrAlphaModern raw mode pad s) := by
  refine .finish hb.toSound ?_
  split
  · exact State.readAlphaModern_inv hb raw mode ((State.stageOk_hdr ‹_›).mp hok).1
  · exact State.scaleAlphaModern_inv hb ((State.stageOk_hdr ‹_›).mp hok).1
  · exact .error

theorem execHdrAnim_inv (total current delay : Half) (noRepeat pad : Byte) :
    MeetsInv (execHdrAnim total current delay noRepeat pad s) :=
  .finish hb.toSound (.bind (State.expectHdr_yields hok .anim) fun _ ⟨h, _⟩ => .value fun _ => .value fun _ =>
    .value fun _ => State.setHdr_hdrDone_inv hb h (by simp [Header.Agrees, hdrRank]) fun _ => State.mem_setHdr_self)

theorem execHdrFirst_inv : MeetsInv (execHdrFirst s) :=
  .finish hb.toSound (.bind (State.expectHdr_yields hok .first) fun _ ⟨h, _⟩ => .value fun _ => .ite
    (fun _ => .value fun _ =>
      State.setHdr_hdrDone_inv hb h (by simp [Header.Agrees, hdrRank]) fun _ => State.mem_setHdr_self)
    fun ha => State.hdrDone_inv hb (h.succ fun ha' => absurd ha' ha))

theorem execHdrSize_inv : MeetsInv (execHdrSize s) :=
  .finish hb.toSound (.bind (State.expectHdr_yields hok .size) fun _ ⟨h, _⟩ => .value fun _ =>
    State.setHdr_hdrDone_inv hb h (by simp [Header.Agrees, hdrRank])
      ⟨State.mem_setHdr_self, headerSize_toNat s.hdr.alphaField s.hdr.animated⟩)

theorem execHdrIndex_inv (pad : Option Word) (count : Word) : MeetsInv (execHdrIndex pad count s) :=
  .finish hb.toSound (.bind (State.expectHdr_yields hok .index) fun _ ⟨h, _⟩ => .value fun _ => .value fun _ =>
    .value fun _ => State.setHdr_hdrDone_inv hb h (by simp [Header.Agrees, hdrRank]) fun _ => State.mem_setHdr_self)

theorem execHdrXval_inv : MeetsInv (execHdrXval s) :=
  .finish hb.toSound (.bind (State.expectHdr_yields hok .xval) fun _ ⟨h, _⟩ => .value fun _ => .value fun _ =>
    .bind (require_yields ..) fun _ hfit => State.hdrDone_inv hb (h.succ fun _ => of_decide_eq_true hfit))

theorem execHdrDataEnd_inv : MeetsInv (execHdrDataEnd s) := by
  refine .finish hb.toSound (.bind (State.expectHdr_yields hok .dataEnd) fun _ ⟨h, _⟩ => .value fun _ => ?_)
  have ends (e : Nat) (he : e ≤ s.len) :
      Yields ((s.setHdr .dataEnd { s.hdr with dataEnd := e }).hdrDone .dataEnd) fun t => t.inv = true :=
    State.setHdr_hdrDone_inv hb h (by simp [Header.Agrees, hdrRank]) ⟨State.mem_setHdr_self, he⟩
  refine .ite (fun ha => .bind (s.rd_yields _ _) fun e he => ?_) fun _ => ends _ (Nat.le_refl _)
  exact ends e (he.2 ▸ h.alphaFits (by decide) ha)

theorem execHdrQpGate_inv : MeetsInv (execHdrQpGate s) :=
  .finish hb.toSound (.bind (State.expectHdr_yields hok .qpGate) fun _ ⟨h, _⟩ => .value fun _ =>
    State.setHdr_hdrDone_inv hb h (by simp [Header.Agrees, hdrRank]) State.mem_setHdr_self)

end
end Sys2Proof.Machine

namespace Sys2Proof.Machine

open Sys2Proof

/-! ## The work of a symbol

Between the delta table or the start of a W2 unit and the step to the next control point, a symbol moves cursors, writes
pixels, `IBUF` and working registers, and marks registers as written.  `Evolves s t` says that `t` is `s` after such work:
what the invariant says of `s`, but for the sequencer's own step, it says of `t`. -/

/-- `s` with what the work of a symbol may change taken from `u`. -/
def State.withWork (s u : State) : State :=
  { s with
    bit1 := u.bit1, bit2 := u.bit2, d2b := u.d2b, a9 := u.a9, idx := u.idx, lit := u.lit, d2 := u.d2
    frame := u.frame, mask := u.mask, k := u.k, run := u.run, entry := u.entry, ibuf := u.ibuf, ipos := u.ipos
    dist := u.dist, written := u.written }

/-- `t` is `s` after work of a symbol: stores stay canonical, cursors inside their regions, and marks stay. -/
structure Evolves (s t : State) : Prop where
  rest : t = s.withWork t
  written : ∀ r ∈ s.written, r ∈ t.written
  frame : Store.wf s.frame = true → Store.wf t.frame = true
  ibuf : Store.wf s.ibuf = true → Store.wf t.ibuf = true
  bit_inside : ∀ id, s.bitInside (s.bitCur id) = true → t.bitInside (t.bitCur id) = true
  a9_inside : s.bankInside s.a9 = true → t.bankInside t.a9 = true
  idx_inside : s.byteInside s.idx = true → t.byteInside t.idx = true
  lit_inside : s.byteInside s.lit = true → t.byteInside t.lit = true
  d2_inside : s.bankInside s.d2 = true → t.bankInside t.d2 = true

section

variable {s t u : State}

/-- What does not look at the work of a symbol is as it was. -/
theorem Evolves.keeps {β : Sort*} (h : Evolves s t) (P : State → β)
    (hP : ∀ u, P (s.withWork u) = P s := by intro; rfl) : P t = P s :=
  (congrArg P h.rest).trans (hP t)

theorem Evolves.trans (h : Evolves s t) (h' : Evolves t u) : Evolves s u where
  rest := by
    calc u = t.withWork u := h'.rest
      _ = (s.withWork t).withWork u := congrArg (·.withWork u) h.rest
      _ = s.withWork u := rfl
  written r hr := h'.written r (h.written r hr)
  frame := h'.frame ∘ h.frame
  ibuf := h'.ibuf ∘ h.ibuf
  bit_inside id := h'.bit_inside id ∘ h.bit_inside id
  a9_inside := h'.a9_inside ∘ h.a9_inside
  idx_inside := h'.idx_inside ∘ h.idx_inside
  lit_inside := h'.lit_inside ∘ h.lit_inside
  d2_inside := h'.d2_inside ∘ h.d2_inside

theorem Evolves.refl (s : State) : Evolves s s :=
  ⟨rfl, fun _ => id, id, id, fun _ => id, id, id, id, id⟩

/-- Reads are work. -/
theorem Reads.evolves (h : Reads s t) : Evolves s t where
  rest := by
    calc t = s.withCursors t := h.rest
      _ = s.withWork (s.withCursors t) := rfl
      _ = s.withWork t := congrArg s.withWork h.rest.symm
  written r hr := by rwa [h.keeps State.written]
  frame hf := by rwa [h.keeps State.frame]
  ibuf hi := by rwa [h.keeps State.ibuf]
  bit_inside id hb := by rw [h.keeps State.bitInside]; exact h.bit_inside id hb
  a9_inside hb := by rw [h.keeps State.bankInside]; exact h.a9_inside hb
  idx_inside hb := by rw [h.keeps State.byteInside]; exact h.idx_inside hb
  lit_inside hb := by rw [h.keeps State.byteInside]; exact h.lit_inside hb
  d2_inside hb := by rw [h.keeps State.bankInside]; exact h.d2_inside hb

/-- So are writes to the stores, the counters and the registers of a symbol. -/
theorem evolves_update {f : Pixels} {m : Memory} (hf : Store.wf s.frame = true → Store.wf f = true)
    (hm : Store.wf s.ibuf = true → Store.wf m = true) (mask : Half) (k run ipos dist : Nat) (entry : Word) :
    Evolves s { s with
      frame := f, ibuf := m, mask := mask, k := k, run := run, ipos := ipos, dist := dist, entry := entry } :=
  ⟨rfl, fun _ => id, hf, hm, fun id h => by cases id <;> exact h, id, id, id, id⟩

theorem State.byteInside_mark {r : Reg} {c : ByteCursor} (h : s.byteInside c = true) :
    (s.mark r).byteInside c = true := by
  obtain ⟨hlo, hhi, hmem⟩ := State.byteInside_iff.mp h
  exact State.byteInside_iff.mpr ⟨hlo, hhi, State.holds_mark hmem⟩

theorem State.bankInside_mark {r : Reg} {b : ByteBank} (h : s.bankInside b = true) :
    (s.mark r).bankInside b = true := by
  simp only [State.bankInside, Bool.and_eq_true] at h ⊢
  obtain ⟨⟨⟨h0, h1⟩, h2⟩, h3⟩ := h
  exact ⟨⟨⟨State.byteInside_mark h0, State.byteInside_mark h1⟩, State.byteInside_mark h2⟩, State.byteInside_mark h3⟩

/-- Marking a register as written. -/
theorem evolves_mark (s : State) (r : Reg) : Evolves s (s.mark r) :=
  ⟨rfl, fun _ => State.mem_mark_of_mem, id, id, fun id h => by cases id <;> exact h, State.bankInside_mark,
    State.byteInside_mark, State.byteInside_mark, State.bankInside_mark⟩

theorem Emitted.evolves (h : Emitted s t) : Evolves s t := by
  rw [h.rest]
  exact evolves_update h.frame id s.mask t.k s.run s.ipos s.dist s.entry

/-! ### What work keeps of the invariant -/

theorem Evolves.sound (h : Evolves s t) (hs : s.Sound) : t.Sound where
  cfg := (h.keeps (·.cfg.wf)).trans hs.cfg
  canonical := by
    obtain ⟨⟨hpkt, hibuf, hframe, href⟩, hout⟩ := State.canonical_iff.mp hs.canonical
    refine State.canonical_iff.mpr ⟨⟨?_, h.ibuf hibuf, h.frame hframe, ?_⟩, ?_⟩
    · rwa [h.keeps State.pkt]
    · rwa [h.keeps State.ref]
    · rwa [h.keeps State.outBuf]
  s_le := by rw [h.keeps State.seq]; exact hs.s_le
  p_le := by rw [h.keeps State.seq]; exact hs.p_le
  dt_length := by rw [h.keeps State.dt]; exact hs.dt_length

theorem Evolves.busy (h : Evolves s t) (hs : s.Busy) : t.Busy :=
  ⟨h.sound hs.toSound, (h.keeps (·.status.phase)).trans hs.busy⟩

theorem Evolves.headerFacts {r : Nat} (h : Evolves s t) (hs : s.HeaderFacts r) : t.HeaderFacts r :=
  hs.of_agrees (h.keeps State.len) h.written (by rw [h.keeps State.hdr]; exact .refl r s.hdr)

theorem State.a9Built_iff :
    s.a9Built = true ↔ Reg.rsA9LL ∈ s.written ∧ s.bitInside (s.bitCur .bit1) = true ∧
      s.bitInside (s.bitCur .bit2) = true ∧ s.bankInside s.a9 = true := by
  simp [State.a9Built, State.has, State.bitCur, and_assoc]

theorem Evolves.a9Built (h : Evolves s t) (hs : s.a9Built = true) : t.a9Built = true := by
  obtain ⟨hr, h1, h2, hb⟩ := State.a9Built_iff.mp hs
  exact State.a9Built_iff.mpr ⟨h.written _ hr, h.bit_inside _ h1, h.bit_inside _ h2, h.a9_inside hb⟩

/-! ### Operations that are work -/

theorem State.skipBits_evolves (s : State) (id : BitCur) (n : Nat) : Yields (s.skipBits id n) (Evolves s) :=
  (s.skipBits_yields id n).mono fun _ h => h.evolves

theorem State.skipBytes_evolves (s : State) (id : ByteCur) (n : Nat) : Yields (s.skipBytes id n) (Evolves s) :=
  (s.skipBytes_yields id n).mono fun _ h => h.evolves

/-- Writing pixels is work. -/
theorem evolves_frame {f : Pixels} (hf : Store.wf s.frame = true → Store.wf f = true) :
    Evolves s { s with frame := f } :=
  evolves_update hf id s.mask s.k s.run s.ipos s.dist s.entry

theorem State.putPixel_evolves (s : State) (x y : Nat) (v : Half) : Yields (s.putPixel x y v) (Evolves s) := by
  refine ⟨fun t ht => ?_⟩
  rw [State.putPixel_eq_ok ht]
  exact evolves_frame (Store.wf_set _ _)

theorem State.fillRect_evolves (s : State) (x0 y0 w h : Nat) (f : Nat → Nat → Half) :
    Yields (s.fillRect x0 y0 w h f) (Evolves s) :=
  .value fun ⟨_, _⟩ => .ite (fun _ => .ok (evolves_frame (Pixels.wf_fill _ _ _ _ _))) fun _ => .error

theorem State.copyRef_evolves (s : State) (x0 y0 n : Nat) (dx dy : Int) :
    Yields (s.copyRef x0 y0 n dx dy) (Evolves s) :=
  .value fun _ => s.fillRect_evolves ..

end

/-! ## A9LL frames -/

/-- An intra frame of whole tiles with its reader set and its table (42_a9ll_intra.md R145). -/
structure State.IntraReady (s : State) : Prop where
  header : s.HeaderFacts 17
  built : s.a9Built = true
  whole : wholeTiles s.fw s.fh = true
  dt : Reg.dt ∈ s.written

/-- An inter frame with its reader set, its reference and its table (43_a9ll_inter.md R192). -/
structure State.InterReady (s : State) : Prop where
  header : s.HeaderFacts 17
  built : s.a9Built = true
  ref : s.refUsable = true
  dt : Reg.dt ∈ s.written

/-- `SEQ.t` is a tile of an intra frame, or a macroblock of an inter frame which the sub-block sequence fits. -/
def State.InTile (s : State) : TileKind → Prop
  | .frame => s.IntraReady ∧ s.tileValid = true
  | .within k => s.InterReady ∧ s.mbValid = true ∧ s.sequenceOk k = true

/-- The predictor is one that a tile of this kind has, and a tile of a sub-block sequence lies inside the image. -/
def State.PredFits (s : State) (pr : Predictor) : TileKind → Prop
  | .frame => ∃ d, pr = .dir d
  | .within k => s.tileFits (.within k) = true ∧ ((∃ d, pr = .dir d) ∨ k = .sub3)

section

variable {s t : State}

theorem Evolves.intraReady (h : Evolves s t) (hs : s.IntraReady) : t.IntraReady :=
  ⟨h.headerFacts hs.header, h.a9Built hs.built, (h.keeps fun s => wholeTiles s.fw s.fh).trans hs.whole,
    h.written _ hs.dt⟩

theorem Evolves.interReady (h : Evolves s t) (hs : s.InterReady) : t.InterReady :=
  ⟨h.headerFacts hs.header, h.a9Built hs.built, (h.keeps State.refUsable).trans hs.ref, h.written _ hs.dt⟩

theorem Evolves.mvInside (h : Evolves s t) (hs : s.mvInside = true) : t.mvInside = true := by
  obtain ⟨hw, hin⟩ := State.mvInside_iff.mp hs
  exact State.mvInside_iff.mpr ⟨h.written _ hw,
    (h.keeps fun s => inside s.fw s.fh (s.mbAt.1 + s.mv.x) (s.mbAt.2 + s.mv.y) 16 16).trans hin⟩

theorem Evolves.sequenceOk {k : SubKind} (h : Evolves s t) (hs : s.sequenceOk k = true) : t.sequenceOk k = true := by
  cases k with
  | sub3 =>
    obtain ⟨hm, hmv⟩ := State.sub3Ok_iff.mp hs
    exact State.sub3Ok_iff.mpr ⟨(h.keeps State.mbFull).trans hm, h.mvInside hmv⟩
  | sub2 => exact (h.keeps State.mbFull).trans hs
  | cells => rfl

theorem Evolves.inTile {k : TileKind} (h : Evolves s t) (hs : s.InTile k) : t.InTile k := by
  cases k with
  | frame => exact ⟨h.intraReady hs.1, (h.keeps State.tileValid).trans hs.2⟩
  | within k => exact ⟨h.interReady hs.1, (h.keeps State.mbValid).trans hs.2.1, h.sequenceOk hs.2.2⟩

theorem Evolves.predFits {pr : Predictor} {k : TileKind} (h : Evolves s t) (hs : s.PredFits pr k) :
    t.PredFits pr k := by
  cases k with
  | frame => exact hs
  | within k => exact ⟨(h.keeps (·.tileFits (.within k))).trans hs.1, hs.2⟩

/-- Whether an intra frame is ready does not depend on `SEQ`. -/
theorem State.IntraReady.setSeq (h : s.IntraReady) (q : Seq) : State.IntraReady { s with seq := q } :=
  ⟨h.header.setSeq q, h.built, h.whole, h.dt⟩

theorem State.InterReady.setSeq (h : s.InterReady) (q : Seq) : State.InterReady { s with seq := q } :=
  ⟨h.header.setSeq q, h.built, h.ref, h.dt⟩

/-- A step inside the same tile or macroblock. -/
theorem State.InTile.setSeq {k : TileKind} {q : Seq} (h : s.InTile k) (hq : q.t = s.seq.t) :
    State.InTile { s with seq := q } k := by
  obtain ⟨unit, t, i, p, g⟩ := q
  obtain rfl : t = s.seq.t := hq
  cases k with
  | frame => exact ⟨h.1.setSeq _, h.2⟩
  | within k =>
    refine ⟨h.1.setSeq _, h.2.1, ?_⟩
    cases k <;> exact h.2.2

/-! ### What the invariant says at the control points of an A9LL frame -/

theorem State.intraReady_iff :
    s.IntraReady ↔ s.headerUpTo 17 = true ∧ s.intraFrame = true ∧ Reg.dt ∈ s.written := by
  rw [State.intraFrame_iff, ← State.headerFacts_iff]
  exact ⟨fun h => ⟨h.header, ⟨h.built, h.whole⟩, h.dt⟩, fun ⟨hh, ⟨hb, hw⟩, hd⟩ => ⟨hh, hb, hw, hd⟩⟩

theorem State.interReady_iff :
    s.InterReady ↔ s.headerUpTo 17 = true ∧ s.interFrameOk = true ∧ Reg.dt ∈ s.written := by
  rw [State.interFrameOk_iff, ← State.headerFacts_iff]
  exact ⟨fun h => ⟨h.header, ⟨h.built, h.ref⟩, h.dt⟩, fun ⟨hh, ⟨hb, hr⟩, hd⟩ => ⟨hh, hb, hr, hd⟩⟩

theorem State.stageOk_tile (hs : s.seq.stage = .tile) : s.stageOk = true ↔ s.InTile .frame := by
  simp [State.stageOk, hs, State.InTile, State.intraReady_iff, State.has, and_assoc]

/-- At a macroblock any sequence may follow, so none is asked for but the one that fits every macroblock. -/
theorem State.stageOk_mb (hs : s.seq.stage = .mb) : s.stageOk = true ↔ s.InTile (.within .cells) := by
  simp [State.stageOk, hs, State.InTile, State.interReady_iff, State.has, State.sequenceOk, and_assoc]

theorem State.stageOk_mvCopy (hs : s.seq.stage = .mvCopy) : s.stageOk = true ↔ s.InTile (.within .sub3) := by
  simp [State.stageOk, hs, State.InTile, State.interReady_iff, State.has, and_assoc]

theorem State.stageOk_gate {k : SubKind} (hs : s.seq.stage = .gate k) : s.stageOk = true ↔ s.InTile (.within k) := by
  simp [State.stageOk, hs, State.InTile, State.interReady_iff, State.has, and_assoc]

theorem State.stageOk_sub {k : SubKind} (hs : s.seq.stage = .sub k) :
    s.stageOk = true ↔ s.InTile (.within k) ∧ cellVisible s.fw s.fh (s.tileAt (.within k)) = true := by
  simp [State.stageOk, hs, State.InTile, State.interReady_iff, State.has, and_assoc]

theorem State.stageOk_pixel {pr : Predictor} {k : TileKind} (hs : s.seq.stage = .pixel pr k) :
    s.stageOk = true ↔ s.InTile k ∧ Reg.mask ∈ s.written ∧ s.PredFits pr k := by
  cases k <;> cases pr <;>
    simp [State.stageOk, hs, State.InTile, State.PredFits, State.intraReady_iff, State.interReady_iff, State.has] <;>
    tauto

end
end Sys2Proof.Machine

namespace Sys2Proof.Machine

open Sys2Proof

/-! ## Where the sequencer goes in an A9LL frame -/

section

variable {s t : State}

theorem State.gotoComplete_inv (hb : s.Busy) (h : s.HeaderFacts 17) : s.gotoComplete.inv = true :=
  hb.seq_inv hb.s_le hb.p_le nofun ((State.stageOk_complete rfl).mpr (h.setSeq _))

theorem State.nextTile_inv (hb : s.Busy) (h : s.IntraReady) : Yields s.nextTile fun t => t.inv = true := by
  rw [State.nextTile_ok (h.header.dims (by decide))]
  refine .ok ?_
  unfold State.seqNextTile
  split
  · rename_i ht
    exact hb.seq_inv (Nat.zero_le _) (Nat.zero_le _) nofun
      ((State.stageOk_tile rfl).mpr ⟨h.setSeq _, decide_eq_true ht⟩)
  · exact State.gotoComplete_inv hb h.header

theorem State.seqNextMb_inv (hb : s.Busy) (h : s.InterReady) : State.inv { s with seq := s.seqNextMb } = true := by
  unfold State.seqNextMb
  split
  · rename_i ht
    exact hb.seq_inv (Nat.zero_le _) (Nat.zero_le _) nofun
      ((State.stageOk_mb rfl).mpr ⟨h.setSeq _, decide_eq_true ht, rfl⟩)
  · exact State.gotoComplete_inv hb h.header

theorem State.nextMb_inv (hb : s.Busy) (h : s.InterReady) : Yields s.nextMb fun t => t.inv = true := by
  rw [State.nextMb_ok (h.header.dims (by decide))]
  exact .ok (State.seqNextMb_inv hb h)

theorem cellVisible_iff {w h : Nat} {o : Nat × Nat} : cellVisible w h o = true ↔ o.1 < w ∧ o.2 < h := by
  simp [cellVisible]

/-- The next sub-block of a sequence is one of the sixteen, and a visible one (43_a9ll_inter.md R176, R177, R187). -/
theorem subAfter_spec {k : SubKind} {w h t sb i : Nat} (hk : subAfter k w h t sb = some i)
    (hm : k = .cells ∨ fullMb w h (mbOrigin w t) = true) :
    i ≤ 15 ∧ cellVisible w h (subOrigin w t i) = true := by
  have full (hlt : i ≤ 15) (hf : fullMb w h (mbOrigin w t) = true) : cellVisible w h (subOrigin w t i) = true := by
    obtain ⟨hx, hy⟩ := fullMb_iff.mp hf
    rw [cellVisible_iff]
    simp only [subOrigin]
    omega
  have next (hk : (if sb + 1 < 16 then some (sb + 1) else none) = some i) : i ≤ 15 := by
    split at hk
    · cases hk; omega
    · cases hk
  cases k with
  | cells =>
    have hi := List.mem_of_find?_eq_some hk
    have hv := List.find?_some hk
    simp only [List.mem_range, Bool.and_eq_true] at hi hv
    exact ⟨by omega, hv.2⟩
  | sub3 => exact ⟨next hk, full (next hk) (hm.resolve_left nofun)⟩
  | sub2 => exact ⟨next hk, full (next hk) (hm.resolve_left nofun)⟩

/-- A sequence of sub-blocks other than the cells runs in a full macroblock. -/
theorem State.sequenceOk_full {k : SubKind} (h : s.sequenceOk k = true) : k = .cells ∨ s.mbFull = true := by
  cases k with
  | sub3 => exact .inr (State.sub3Ok_iff.mp h).1
  | sub2 => exact .inr h
  | cells => exact .inl rfl

theorem State.nextSub_inv {k : SubKind} (hb : s.Busy) (h : s.InTile (.within k)) :
    Yields (s.nextSub k) fun t => t.inv = true := by
  obtain ⟨hr, hv, hseq⟩ := h
  rw [State.nextSub_ok k (hr.header.dims (by decide))]
  refine .ok ?_
  unfold State.seqNextSub
  split
  · rename_i i hi
    obtain ⟨hle, hvis⟩ := subAfter_spec hi (State.sequenceOk_full hseq)
    exact hb.seq_inv hle (Nat.zero_le _) nofun
      ((State.stageOk_sub rfl).mpr ⟨State.InTile.setSeq ⟨hr, hv, hseq⟩ rfl, hvis⟩)
  · exact State.seqNextMb_inv hb hr

theorem State.tileDone_inv {k : TileKind} (hb : s.Busy) (h : s.InTile k) :
    Yields (s.tileDone k) fun t => t.inv = true := by
  cases k with
  | frame => exact State.nextTile_inv hb h.1
  | within k => exact State.nextSub_inv hb h

theorem State.pixelDone_inv {pr : Predictor} {k : TileKind} (hb : s.Busy) (hs : s.seq.stage = .pixel pr k)
    (hok : s.stageOk = true) : Yields (s.pixelDone k) fun t => t.inv = true := by
  obtain ⟨hin, hmask, hfit⟩ := (State.stageOk_pixel hs).mp hok
  refine .ite (fun hp => .ok (hb.seq_inv hb.s_le hp (by simp [hs]) ?_)) fun _ => State.tileDone_inv hb hin
  refine (State.stageOk_pixel hs).mpr ⟨hin.setSeq rfl, hmask, ?_⟩
  cases k <;> exact hfit

/-- A mask is read, and the pixel loop of the tile starts (42_a9ll_intra.md R148, R149). -/
theorem State.openTile_inv {pr : Predictor} {k : TileKind} (mask : Half) (hb : s.Busy) (h : s.InTile k)
    (hfit : s.PredFits pr k) : Yields (s.openTile pr k mask) fun t => t.inv = true := by
  refine .bind (s.skipBytes_evolves .maskc 2) fun t ht => ?_
  have hmark : Evolves s (State.mark { t with mask := mask } .mask) :=
    (ht.trans (evolves_update id id mask t.k t.run t.ipos t.dist t.entry)).trans (evolves_mark _ _)
  have hb := hmark.busy hb
  refine .ok (hb.seq_inv hb.s_le (Nat.zero_le _) nofun ((State.stageOk_pixel rfl).mpr ?_))
  refine ⟨(hmark.inTile h).setSeq rfl, State.mem_mark_self, ?_⟩
  have hfit := hmark.predFits hfit
  cases k <;> exact hfit

/-- A mode of `n` bits, then a predicted tile. -/
theorem State.openMode_inv {pr : Predictor} {k : TileKind} (n : Nat) (mask : Half) (hb : s.Busy) (h : s.InTile k)
    (hfit : s.PredFits pr k) :
    Yields (do let s ← s.skipBits .bit1 n; s.openTile pr k mask) fun t => t.inv = true :=
  .bind (s.skipBits_evolves .bit1 n) fun _ ht =>
    State.openTile_inv mask (ht.busy hb) (ht.inTile h) (ht.predFits hfit)

/-- A mode of `n` bits, then the edge tile. -/
theorem State.edgeMode_inv {k : TileKind} (n : Nat) (hb : s.Busy) (h : s.InTile k) :
    Yields (do let s ← s.skipBits .bit1 n; s.edgeTile k) fun t => t.inv = true := by
  refine .bind (s.skipBits_evolves .bit1 n) fun t ht => .value fun ⟨x0, y0⟩ => ?_
  refine .ite (fun _ => ?_) fun _ => .bind (t.fillRect_evolves ..) fun u hu => ?_
  · exact State.tileDone_inv (ht.busy hb) (ht.inTile h)
  · exact State.tileDone_inv ((ht.trans hu).busy hb) ((ht.trans hu).inTile h)

end

/-! ## Intra frames keep the invariant -/

section

variable {s t : State}

/-- A meaning that asks for a control point runs there only. -/
theorem expectStage_yields (s : State) (g : Stage) : Yields (expect (decide (s.seq.stage = g))) fun _ => s.seq.stage = g :=
  (expect_yields _).mono fun _ h => of_decide_eq_true h

variable (hb : s.Busy) (hok : s.stageOk = true)

include hb hok

theorem State.dirTile2_inv (d : Dir) (mask : Half) : Yields (s.dirTile2 d mask) fun t => t.inv = true :=
  .bind (expectStage_yields s .tile) fun _ hs =>
    State.openMode_inv 2 mask hb ((State.stageOk_tile hs).mp hok) ⟨d, rfl⟩

theorem execTile2Edge_inv : MeetsInv (execTile2Edge s) :=
  .finish hb.toSound (.bind (expectStage_yields s .tile) fun _ hs =>
    State.edgeMode_inv 2 hb ((State.stageOk_tile hs).mp hok))

omit hb hok in
theorem State.pixelHere_yields (s : State) (set : Bool) :
    Yields (s.pixelHere set) fun x => s.seq.stage = .pixel x.2.2.1 x.2.2.2 := by
  unfold State.pixelHere
  split
  · exact .value fun _ => .value fun _ => .value fun ⟨_, _⟩ => .ok ‹_›
  · exact .error

omit hb hok in
/-- Work at a pixel, and the step to the next one. -/
theorem Evolves.pixelDone_inv {pr : Predictor} {k : TileKind} (h : Evolves s t) (hb : s.Busy) (hok : s.stageOk = true)
    (hs : s.seq.stage = .pixel pr k) : Yields (t.pixelDone k) fun t => t.inv = true := by
  have hs' : t.seq.stage = .pixel pr k := (h.keeps (·.seq.stage)).trans hs
  obtain ⟨hin, hmask, hfit⟩ := (State.stageOk_pixel hs).mp hok
  exact State.pixelDone_inv (h.busy hb) hs'
    ((State.stageOk_pixel hs').mpr ⟨h.inTile hin, h.written _ hmask, h.predFits hfit⟩)

theorem State.residual_inv (c i : Nat) : Yields (s.residual c i) fun t => t.inv = true :=
  .bind (s.pixelHere_yields false) fun ⟨_, _, _, _⟩ hs => .bind (s.skipBits_evolves .bit2 3) fun t ht =>
    .bind (t.skipBits_evolves .bit1 _) fun u hu => .value fun _ => .value fun _ =>
      .bind (u.putPixel_evolves ..) fun _ hv => ((ht.trans hu).trans hv).pixelDone_inv hb hok hs

theorem execPixCopy_inv : MeetsInv (execPixCopy s) :=
  .finish hb.toSound (.bind (s.pixelHere_yields true) fun ⟨_, _, _, _⟩ hs => .value fun _ =>
    .bind (s.putPixel_evolves ..) fun _ ht => ht.pixelDone_inv hb hok hs)

theorem execPixLit_inv (lit : Half) : MeetsInv (execPixLit lit s) :=
  .finish hb.toSound (.bind (s.pixelHere_yields false) fun ⟨_, _, _, _⟩ hs =>
    .bind (s.skipBits_evolves .bit2 3) fun t ht => .bind (t.skipBytes_evolves .litc 2) fun u hu =>
      .bind (u.putPixel_evolves ..) fun _ hv => ((ht.trans hu).trans hv).pixelDone_inv hb hok hs)

end
end Sys2Proof.Machine

namespace Sys2Proof.Machine

open Sys2Proof

/-! ## Macroblocks keep the invariant -/

section

variable {s t : State}

theorem State.mbHere_yields (s : State) (full : Bool) :
    Yields (s.mbHere full) fun o => s.seq.stage = .mb ∧ s.mbFull = full ∧ o = s.mbAt := by
  refine .bind (expectStage_yields s .mb) fun _ hs => .bind s.dims_yields ?_
  rintro _ ⟨-, rfl⟩
  exact .bind (expect_yields _) fun _ hf => .ok ⟨hs, beq_iff_eq.mp hf, rfl⟩

theorem State.mvHere_yields (s : State) : Yields s.mvHere fun _ => s.seq.stage = .mvCopy :=
  .bind (expectStage_yields s .mvCopy) fun _ hs => .value fun ⟨_, _⟩ => .ok hs

theorem State.Busy.setMv (hb : s.Busy) (mv : MotionVector) : (State.mark { s with mv := mv } .mv).Busy :=
  ⟨⟨hb.cfg, hb.canonical, hb.s_le, hb.p_le, hb.dt_length⟩, hb.busy⟩

theorem State.InterReady.setMv (h : s.InterReady) (mv : MotionVector) :
    (State.mark { s with mv := mv } .mv).InterReady :=
  ⟨h.header.of_agrees rfl (fun _ => State.mem_mark_of_mem) (.refl _ _),
    (evolves_mark { s with mv := mv } .mv).a9Built h.built, h.ref, State.mem_mark_of_mem h.dt⟩

/-- The vector of a full macroblock that has passed the bounds test (43_a9ll_inter.md R173, R174). -/
theorem State.InTile.setMv {mv : MotionVector} (h : s.InTile (.within .cells)) (hm : s.mbFull = true)
    (hi : inside s.fw s.fh (s.mbAt.1 + mv.x) (s.mbAt.2 + mv.y) 16 16 = true) :
    (State.mark { s with mv := mv } .mv).InTile (.within .sub3) := by
  obtain ⟨hr, hv, -⟩ := h
  exact ⟨hr.setMv mv, hv, State.sub3Ok_iff.mpr ⟨hm, State.mvInside_iff.mpr ⟨State.mem_mark_self, hi⟩⟩⟩

/-- The first cell of a macroblock of the frame is visible (43_a9ll_inter.md R170). -/
theorem subOrigin_zero_visible {w h t : Nat} (ht : t < mbAcross w * mbAcross h) :
    cellVisible w h (subOrigin w t 0) = true := by
  have hpos : 0 < mbAcross w := Nat.pos_of_ne_zero fun h0 => by simp [h0] at ht
  have hcol : t % mbAcross w < mbAcross w := Nat.mod_lt _ hpos
  have hrow : t / mbAcross w < mbAcross h := Nat.div_lt_of_lt_mul ht
  rw [cellVisible_iff]
  simp only [subOrigin, mbOrigin]
  generalize t % mbAcross w = c, t / mbAcross w = r at hcol hrow
  simp only [mbAcross] at hcol hrow
  omega

variable (hb : s.Busy) (hok : s.stageOk = true)

include hb hok

theorem execMbRefCopy_inv : MeetsInv (execMbRefCopy s) :=
  .finish hb.toSound (.bind (s.mbHere_yields true) fun ⟨_, _⟩ ⟨hs, _⟩ => .bind (s.skipBits_evolves .bit1 2) fun t ht =>
    .bind (t.copyRef_evolves ..) fun _ hu => State.nextMb_inv ((ht.trans hu).busy hb)
      ((ht.trans hu).interReady ((State.stageOk_mb hs).mp hok).1))

theorem execMbMvZero_inv : MeetsInv (execMbMvZero s) := by
  refine .finish hb.toSound (.bind (s.mbHere_yields true) fun ⟨_, _⟩ ⟨hs, hm, _⟩ =>
    .bind (s.skipBits_evolves .bit1 3) fun t ht => .ok ?_)
  have hm : t.mbFull = true := (ht.keeps State.mbFull).trans hm
  obtain ⟨hx, hy⟩ := fullMb_iff.mp hm
  have hin := State.InTile.setMv (mv := { x := 0, y := 0 }) (ht.inTile ((State.stageOk_mb hs).mp hok)) hm
    (inside_zero hx hy)
  exact ((ht.busy hb).setMv _).goto_inv nofun ((State.stageOk_mvCopy rfl).mpr (hin.setSeq rfl))

theorem execMbMv_inv (a : BitVec 8) (b : BitVec 7) : MeetsInv (execMbMv a b s) := by
  refine .finish hb.toSound (.bind (s.mbHere_yields true) ?_)
  rintro _ ⟨hs, hm, rfl⟩
  refine .bind s.dims_yields ?_
  rintro _ ⟨-, rfl⟩
  refine .bind (s.skipBits_evolves .bit1 3) fun t ht => .bind (t.skipBits_evolves .bit1 8) fun u hu =>
    .bind (u.skipBits_evolves .bit1 7) fun v hv => ?_
  have hv : Evolves s v := (ht.trans hu).trans hv
  have hin := hv.inTile ((State.stageOk_mb hs).mp hok)
  have hbusy := (hv.busy hb).setMv (assembleMv v.cfg.mvAxis a b)
  refine .ite (fun hi => .ok (hbusy.goto_inv nofun ((State.stageOk_mvCopy rfl).mpr (State.InTile.setSeq ?_ rfl))))
    fun _ => State.nextMb_inv hbusy (hin.1.setMv _)
  refine hin.setMv ((hv.keeps State.mbFull).trans hm) ?_
  rw [hv.keeps State.fw, hv.keeps State.fh, hv.keeps State.mbAt]
  exact hi

theorem execMbMcCopy_inv : MeetsInv (execMbMcCopy s) :=
  .finish hb.toSound (.bind s.mvHere_yields fun ⟨_, _⟩ hs => .value fun _ => .bind (s.skipBits_evolves .bit1 1) fun t ht =>
    .bind (t.copyRef_evolves ..) fun _ hu => State.nextMb_inv ((ht.trans hu).busy hb)
      ((ht.trans hu).interReady ((State.stageOk_mvCopy hs).mp hok).1))

theorem execMbMcSub_inv : MeetsInv (execMbMcSub s) :=
  .finish hb.toSound (.bind s.mvHere_yields fun ⟨_, _⟩ hs => .bind (s.skipBits_evolves .bit1 1) fun _ ht =>
    .ok ((ht.busy hb).goto_inv nofun ((State.stageOk_gate rfl).mpr
      ((ht.inTile ((State.stageOk_mvCopy hs).mp hok)).setSeq rfl))))

theorem execMbSub2_inv : MeetsInv (execMbSub2 s) := by
  refine .finish hb.toSound (.bind (s.mbHere_yields true) fun ⟨_, _⟩ ⟨hs, hm, _⟩ =>
    .bind (s.skipBits_evolves .bit1 1) fun t ht => .ok ?_)
  obtain ⟨hr, hv, -⟩ := (State.stageOk_mb hs).mp hok
  have hin : s.InTile (.within .sub2) := ⟨hr, hv, hm⟩
  exact (ht.busy hb).goto_inv nofun ((State.stageOk_gate rfl).mpr ((ht.inTile hin).setSeq rfl))

omit hok in
theorem execEmbSkip1_inv : MeetsInv (execEmbSkip1 s) := .finish hb.toSound (.value fun _ => .value fun _ => .error)

theorem execEmbCells_inv : MeetsInv (execEmbCells s) :=
  .finish hb.toSound (.bind (s.mbHere_yields false) fun ⟨_, _⟩ ⟨hs, _⟩ => .bind (s.skipBits_evolves .bit1 1) fun _ ht =>
    .ok ((ht.busy hb).goto_inv nofun ((State.stageOk_gate rfl).mpr
      ((ht.inTile ((State.stageOk_mb hs).mp hok)).setSeq rfl))))

theorem execGate_inv : MeetsInv (execGate s) := by
  refine .finish hb.toSound ?_
  split
  · rename_i k hs
    have hin := (State.stageOk_gate hs).mp hok
    refine .value fun _ => .value fun _ => .ok (hb.seq_inv (Nat.zero_le _) (Nat.zero_le _) nofun ?_)
    exact (State.stageOk_sub rfl).mpr ⟨hin.setSeq rfl, subOrigin_zero_visible (of_decide_eq_true hin.2.1)⟩
  · exact .error

/-! ### Sub-blocks and cells -/

omit hb hok in
theorem State.expectSub3_yields (s : State) : Yields s.expectSub3 fun _ => s.seq.stage = .sub .sub3 :=
  expectStage_yields s (.sub .sub3)

/-- A `SUB3` sub-block may have every predictor (43_a9ll_inter.md R179, R181, R183). -/
theorem State.sub3_predFits (hs : s.seq.stage = .sub .sub3) (pr : Predictor) : s.PredFits pr (.within .sub3) := by
  obtain ⟨⟨-, -, hseq⟩, -⟩ := (State.stageOk_sub hs).mp hok
  exact ⟨State.tileFits_sub (State.sub3Ok_iff.mp hseq).1 hb.s_le, .inr rfl⟩

theorem State.maskedSub3_inv (pr : Predictor) (mask : Half) : Yields (s.maskedSub3 pr mask) fun t => t.inv = true :=
  .bind s.expectSub3_yields fun _ hs => State.openMode_inv 3 mask hb ((State.stageOk_sub hs).mp hok).1
    (State.sub3_predFits hb hok hs pr)

theorem execS3Edge_inv : MeetsInv (execS3Edge s) :=
  .finish hb.toSound (.bind s.expectSub3_yields fun _ hs => State.edgeMode_inv 3 hb ((State.stageOk_sub hs).mp hok).1)

theorem execS3CopyRef_inv : MeetsInv (execS3CopyRef s) :=
  .finish hb.toSound (.bind s.expectSub3_yields fun _ hs => .bind (s.skipBits_evolves .bit1 3) fun t ht =>
    .value fun ⟨_, _⟩ => .bind (t.copyRef_evolves ..) fun _ hu => State.nextSub_inv ((ht.trans hu).busy hb)
      ((ht.trans hu).inTile ((State.stageOk_sub hs).mp hok).1))

theorem execS3CopyMv_inv : MeetsInv (execS3CopyMv s) := by
  refine .finish hb.toSound (.bind s.expectSub3_yields fun _ hs => .bind (s.skipBits_evolves .bit1 3) fun t ht =>
    .value fun ⟨_, _⟩ => .value fun ⟨_, _⟩ => .value fun _ => ?_)
  have next {u : State} (hu : Evolves s u) : Yields (u.nextSub .sub3) fun t => t.inv = true :=
    State.nextSub_inv (hu.busy hb) (hu.inTile ((State.stageOk_sub hs).mp hok).1)
  exact .ite (fun _ => .bind (t.copyRef_evolves ..) fun _ hu => next (ht.trans hu)) fun _ => next ht

/-- The tile of a `SUB2` symbol lies inside the image (43_a9ll_inter.md R185, R187). -/
theorem State.sub2Here_yields : Yields s.sub2Here fun k => s.InTile k ∧ ∀ d, s.PredFits (.dir d) k := by
  unfold State.sub2Here
  split
  · rename_i hs
    obtain ⟨⟨hr, hv, hm⟩, -⟩ := (State.stageOk_sub hs).mp hok
    exact .ok ⟨⟨hr, hv, hm⟩, fun d => ⟨State.tileFits_sub hm hb.s_le, .inl ⟨d, rfl⟩⟩⟩
  · rename_i hs
    refine .bind s.dims_yields ?_
    rintro _ ⟨-, rfl⟩
    exact .bind (expect_yields _) fun _ hw => .ok ⟨((State.stageOk_sub hs).mp hok).1, fun d => ⟨hw, .inl ⟨d, rfl⟩⟩⟩
  · exact .error

theorem State.dirSub2_inv (d : Dir) (mask : Half) : Yields (s.dirSub2 d mask) fun t => t.inv = true :=
  .bind (State.sub2Here_yields hb hok) fun _ ⟨hin, hfit⟩ => State.openMode_inv 2 mask hb hin (hfit d)

theorem execS2Edge_inv : MeetsInv (execS2Edge s) :=
  .finish hb.toSound (.bind (State.sub2Here_yields hb hok) fun _ ⟨hin, _⟩ => State.edgeMode_inv 2 hb hin)

omit hb hok in
theorem State.litCellHere_yields (s : State) : Yields s.litCellHere fun _ => s.seq.stage = .sub .cells :=
  .bind (expectStage_yields s (.sub .cells)) fun _ hs => .value fun ⟨_, _⟩ => .value fun _ => .ok hs

theorem execEmbLitCell_inv (lits : List Half) : MeetsInv (execEmbLitCell lits s) :=
  .finish hb.toSound (.bind s.litCellHere_yields fun ⟨⟨_, _⟩, _, _⟩ hs => .value fun _ =>
    .bind (s.skipBytes_evolves .edgelit _) fun t ht => .bind (t.fillRect_evolves ..) fun _ hu =>
      State.nextSub_inv ((ht.trans hu).busy hb) ((ht.trans hu).inTile ((State.stageOk_sub hs).mp hok).1))

end
end Sys2Proof.Machine

namespace Sys2Proof.Machine

open Sys2Proof

/-! ## The delta table keeps the invariant -/

section

variable {s t : State}

/-- What an A9LL frame needs besides its reader set, by its kind: an inter frame its reference and a first macroblock, an
intra frame of whole tiles a first tile, another one P19 (42_a9ll_intra.md R145, R163, 43_a9ll_inter.md R192). -/
def State.KindReady (s : State) : Prop :=
  if s.seq.unit = .a9llInter then s.refUsable = true ∧ s.mbValid = true
  else if wholeTiles s.fw s.fh then s.tileValid = true
  else s.cfg.intraPartial ≠ .refuse

theorem State.stageOk_table (hs : s.seq.stage = .table) :
    s.stageOk = true ↔ s.HeaderFacts 17 ∧ s.seq.t = 0 ∧ s.a9Built = true ∧ s.KindReady := by
  rw [State.headerFacts_iff]
  unfold State.KindReady
  simp only [State.stageOk, hs, State.interFrameOk, State.partialOk]
  split
  · simp [and_assoc]
  · split <;> simp [and_assoc]

theorem State.stageOk_partialFrame (hs : s.seq.stage = .partialFrame) :
    s.stageOk = true ↔ s.HeaderFacts 17 ∧ (s.a9Built = true ∧ s.cfg.intraPartial ≠ .refuse) ∧ Reg.dt ∈ s.written := by
  simp [State.stageOk, hs, State.partialOk, State.headerFacts_iff, State.has, and_assoc]

/-- The table is there, and the frame's first symbol or P19's procedure is next (42_a9ll_intra.md R162). -/
theorem State.tableDone_inv {dt : List Half} (hb : s.Busy) (hh : s.HeaderFacts 17) (ha : s.a9Built = true)
    (hk : s.KindReady) (hdt : dt.length = 511) : Yields (s.tableDone dt) fun t => t.inv = true := by
  refine .bind s.dims_yields ?_
  rintro _ ⟨-, rfl⟩
  have hbusy : (State.mark { s with dt := dt } .dt).Busy :=
    ⟨⟨hb.cfg, hb.canonical, hb.s_le, hb.p_le, hdt⟩, hb.busy⟩
  have hhead (q : Seq) : State.HeaderFacts { State.mark { s with dt := dt } .dt with seq := q } 17 :=
    hh.of_agrees rfl (fun _ => State.mem_mark_of_mem) (.refl _ _)
  have hbuilt := (evolves_mark { s with dt := dt } .dt).a9Built ha
  have hmark : Reg.dt ∈ (State.mark { s with dt := dt } .dt).written := State.mem_mark_self
  refine .ok ?_
  unfold State.KindReady at hk
  unfold afterTable
  split at hk
  · rw [if_pos ‹_›]
    exact hbusy.goto_inv nofun ((State.stageOk_mb rfl).mpr ⟨⟨hhead _, hbuilt, hk.1, hmark⟩, hk.2, rfl⟩)
  · rw [if_neg ‹_›]
    split at hk
    · rw [if_pos ‹_›]
      exact hbusy.goto_inv nofun ((State.stageOk_tile rfl).mpr ⟨⟨hhead _, hbuilt, ‹_›, hmark⟩, hk⟩)
    · rw [if_neg ‹_›]
      exact hbusy.goto_inv nofun ((State.stageOk_partialFrame rfl).mpr ⟨hhead _, ⟨hbuilt, hk⟩, hmark⟩)

/-- A dynamic table has 511 entries: pair 0 is discarded (42_a9ll_intra.md R161). -/
theorem dynamicTable_length {signs : List Byte} {mags : List Half} (h : Instr.wf (.dtab signs mags) = true) :
    (dynamicTable signs mags).length = 511 := by
  simp only [Instr.wf, Bool.and_eq_true, beq_iff_eq] at h
  simp [dynamicTable, h]

/-- Both constant tables have 511 entries (P4). -/
theorem constTable_length {cfg : Config} (h : cfg.wf = true) (version : Byte) :
    (constTable cfg version).length = 511 := by
  simp only [Config.wf, Bool.and_eq_true, beq_iff_eq] at h
  obtain ⟨⟨⟨⟨⟨⟨⟨-, h0⟩, h1⟩, -⟩, -⟩, -⟩, -⟩, -⟩ := h
  unfold constTable
  dsimp only
  split <;> split <;> assumption

variable (hb : s.Busy) (hok : s.stageOk = true)

include hb hok

theorem execDtab_inv (signs : List Byte) (mags : List Half) : MeetsInv (execDtab signs mags s) := by
  refine .finish hb.toSound (.bind (expect_yields _) fun _ hs => .value fun _ => .value fun _ =>
    .bind (s.skipBytes_evolves .tabc 512) fun t ht => .bind (t.skipBytes_evolves .tabc 1024) fun u hu => ?_)
  obtain ⟨hs, hwf⟩ := Bool.and_eq_true_iff.mp hs
  obtain ⟨hh, -, ha, hk⟩ := (State.stageOk_table (of_decide_eq_true hs)).mp hok
  have hu := ht.trans hu
  exact State.tableDone_inv (hu.busy hb) (hu.headerFacts hh) (hu.a9Built ha) ((hu.keeps State.KindReady).mpr hk)
    (dynamicTable_length hwf)

theorem execDtConst_inv : MeetsInv (execDtConst s) := by
  refine .finish hb.toSound (.bind (expectStage_yields s .table) fun _ hs => .value fun _ => .value fun _ => ?_)
  obtain ⟨hh, -, ha, hk⟩ := (State.stageOk_table hs).mp hok
  exact State.tableDone_inv hb hh ha hk (constTable_length hb.cfg _)

/-- P19's frame procedure (42_a9ll_intra.md R163). -/
theorem State.partialFrame_inv (hs : s.seq.stage = .partialFrame) : Yields s.partialFrame fun t => t.inv = true := by
  obtain ⟨hh, -⟩ := (State.stageOk_partialFrame hs).mp hok
  refine .value fun ⟨w, h⟩ => .value fun _ => ?_
  split
  · exact .error
  · split
    · exact .error
    · exact .bind (s.fillRect_evolves ..) fun _ ht => .ok (State.gotoComplete_inv (ht.busy hb) (ht.headerFacts hh))

end

/-! ## The dispatch of an A9LL frame keeps the invariant -/

section

variable {s t : State}

theorem regionWithin_iff {lo hi : Nat} {r : Region} :
    regionWithin lo hi r = true ↔ lo ≤ r.start ∧ r.start ≤ r.stop ∧ r.stop ≤ hi := by
  simp [regionWithin, and_assoc]

/-- A fresh bit cursor stands inside its region. -/
theorem State.bitInside_over {lo hi : Nat} {r : Region} (h : regionWithin lo hi r = true) (hlen : hi ≤ s.len) :
    s.bitInside (bitCursorOver r .packet) = true := by
  obtain ⟨-, hle, hstop⟩ := regionWithin_iff.mp h
  exact State.bitInside_iff.mpr ⟨rfl, hle, hstop.trans hlen, Nat.zero_le _⟩

/-- A fresh byte cursor stands inside its region. -/
theorem State.byteInside_over {lo hi : Nat} {r : Region} {mem : CurMem} (h : regionWithin lo hi r = true)
    (hmem : s.memHas mem = true) (hlen : hi ≤ s.memLen mem) : s.byteInside (byteCursorOver r mem) = true := by
  obtain ⟨-, hle, hstop⟩ := regionWithin_iff.mp h
  exact State.byteInside_iff.mpr ⟨Nat.le_refl _, hle,
    Bool.and_eq_true_iff.mpr ⟨hmem, decide_eq_true (hstop.trans hlen)⟩⟩

/-- A fresh bank of cursors over the packet. -/
theorem State.bankInside_over {lo hi : Nat} {r0 r1 r2 r3 : Region} (h0 : regionWithin lo hi r0 = true)
    (h1 : regionWithin lo hi r1 = true) (h2 : regionWithin lo hi r2 = true) (h3 : regionWithin lo hi r3 = true)
    (hlen : hi ≤ s.len) :
    s.bankInside { p0 := byteCursorOver r0 .packet, p1 := byteCursorOver r1 .packet,
                   p2 := byteCursorOver r2 .packet, p3 := byteCursorOver r3 .packet } = true := by
  simp only [State.bankInside, Bool.and_eq_true]
  exact ⟨⟨⟨State.byteInside_over h0 rfl hlen, State.byteInside_over h1 rfl hlen⟩,
    State.byteInside_over h2 rfl hlen⟩, State.byteInside_over h3 rfl hlen⟩

/-- `RS.A9LL` is built over regions that passed their checks (41_readers.md R141). -/
theorem State.buildA9LL_yields (s : State) : Yields s.buildA9LL fun t =>
    a9Ok s.a9Regions s.hdr.headerSize.toNat s.hdr.dataEnd s.len = true ∧
      t = State.mark { s with
        bit1 := bitCursorOver s.a9Regions.bit1 .packet
        bit2 := bitCursorOver s.a9Regions.bit2 .packet
        a9 := { p0 := byteCursorOver s.a9Regions.byte0 .packet, p1 := byteCursorOver s.a9Regions.byte1 .packet,
                p2 := byteCursorOver s.a9Regions.byte2 .packet, p3 := byteCursorOver s.a9Regions.byte3 .packet }
        a9map := s.a9Regions.map } .rsA9LL := by
  refine .bind (s.rd_yields _ _) ?_
  rintro _ ⟨-, rfl⟩
  refine .bind (s.rd_yields _ _) ?_
  rintro _ ⟨-, rfl⟩
  exact .value fun _ => .bind (require_yields _ _) fun _ hg => .ok ⟨hg, rfl⟩

/-- A built reader set has every cursor inside its region, and the delta table is next (42_a9ll_intra.md R162). -/
theorem State.buildTable_inv (hb : s.Busy) (hh : s.HeaderFacts 17) (hk : s.KindReady) (ht : s.seq.t = 0) :
    Yields (do let s ← s.buildA9LL; .ok (s.goto .table)) fun t => t.inv = true := by
  refine .bind s.buildA9LL_yields ?_
  rintro _ ⟨hg, rfl⟩
  simp only [a9Ok, Bool.and_eq_true, a9All, List.all_cons, List.all_nil, and_true] at hg
  obtain ⟨⟨⟨-, h1, h2, hp0, hp1, hp2, hp3⟩, -⟩, -⟩ := hg
  have hlen : s.hdr.dataEnd ≤ s.len := hh.dataEnd_le (by decide)
  refine .ok (State.Busy.goto_inv ⟨⟨hb.cfg, hb.canonical, hb.s_le, hb.p_le, hb.dt_length⟩, hb.busy⟩ nofun
    ((State.stageOk_table rfl).mpr ⟨?_, ht, State.a9Built_iff.mpr ⟨State.mem_mark_self, ?_, ?_, ?_⟩, hk⟩))
  · exact hh.of_agrees rfl (fun _ => State.mem_mark_of_mem) (.refl _ _)
  · exact State.bitInside_over h1 hlen
  · exact State.bitInside_over h2 hlen
  · exact State.bankInside_over hp0 hp1 hp2 hp3 hlen

/-- Entering a family's unit. -/
theorem State.Busy.enterUnit {f : Pixels} (hb : s.Busy) (u : SeqUnit) (hf : Store.wf f = true) :
    (s.enterUnit u f).Busy := by
  obtain ⟨⟨hpkt, hibuf, -, href⟩, hout⟩ := State.canonical_iff.mp hb.canonical
  exact ⟨⟨hb.cfg, State.canonical_iff.mpr ⟨⟨hpkt, hibuf, hf, href⟩, hout⟩, Nat.zero_le _, Nat.zero_le _, hb.dt_length⟩,
    hb.busy⟩

theorem State.HeaderFacts.enterUnit {r : Nat} (h : s.HeaderFacts r) (u : SeqUnit) (f : Pixels) :
    (s.enterUnit u f).HeaderFacts r :=
  h.of_agrees rfl (fun _ => id) (.refl _ _)

theorem State.fw_pos (h : s.HeaderFacts 17) : 0 < s.fw :=
  Nat.pos_of_ne_zero fun h0 => h.w_ne (by decide) (BitVec.eq_of_toNat_eq h0)

theorem State.fh_pos (h : s.HeaderFacts 17) : 0 < s.fh :=
  Nat.pos_of_ne_zero fun h0 => h.h_ne (by decide) (BitVec.eq_of_toNat_eq h0)

theorem State.expectBranch_yields (s : State) (i : Instr) : Yields (s.expectBranch i) fun _ => s.seq.stage = .dispatch :=
  .bind (expectStage_yields s .dispatch) fun _ hs => ⟨fun _ _ => hs⟩

theorem mbAcross_pos {n : Nat} (h : 0 < n) : 0 < mbAcross n := by
  unfold mbAcross
  omega

/-- The frame store of an inter frame starts in canonical form (46_orchestrator.md R246). -/
theorem State.interFrame_wf (s : State) (w h : Nat) : Store.wf (s.interFrame w h) = true := by
  unfold State.interFrame
  split
  · split
    · rfl
    · exact Pixels.wf_fill _ _ _ _ _ rfl
  · exact Pixels.wf_fill _ _ _ _ _ rfl

variable (hb : s.Busy) (hok : s.stageOk = true)

include hb hok

theorem execDispatchIntra_inv : MeetsInv (execDispatchIntra s) := by
  refine .finish hb.toSound (.bind (s.expectBranch_yields _) fun _ hs => .bind s.dims_yields ?_)
  rintro _ ⟨-, rfl⟩
  have hh := (State.stageOk_dispatch hs).mp hok
  have hw := State.fw_pos hh
  have hpos := State.fh_pos hh
  refine .ite (fun _ => .error) fun hpart => ?_
  refine State.buildTable_inv (hb.enterUnit _ rfl) (hh.enterUnit _ _) ?_ rfl
  have hkind : (s.enterUnit .a9llIntra []).KindReady ↔
      if wholeTiles s.fw s.fh then 0 < s.fw / 4 * (s.fh / 4) else s.cfg.intraPartial ≠ .refuse := by
    simp [State.KindReady, State.tileValid, State.fw, State.fh]
  rw [hkind]
  split
  · rename_i hwhole
    obtain ⟨h4, h4'⟩ := wholeTiles_iff.mp hwhole
    exact Nat.mul_pos (by omega) (by omega)
  · simpa [*] using hpart

theorem execDispatchInter_inv : MeetsInv (execDispatchInter s) := by
  refine .finish hb.toSound (.bind (s.expectBranch_yields _) fun _ hs => .bind s.dims_yields ?_)
  rintro _ ⟨-, rfl⟩
  have hh := (State.stageOk_dispatch hs).mp hok
  have hw := State.fw_pos hh
  have hpos := State.fh_pos hh
  refine .bind (require_yields _ _) fun _ href => ?_
  refine State.buildTable_inv (hb.enterUnit _ (s.interFrame_wf _ _)) (hh.enterUnit _ _) ?_ rfl
  exact ⟨href, decide_eq_true (Nat.mul_pos (mbAcross_pos hw) (mbAcross_pos hpos))⟩

end
end Sys2Proof.Machine

namespace Sys2Proof.Machine

open Sys2Proof

/-! ## W2 depth 1 keeps the invariant -/

/-- `W2.D1` runs: its cursors stand inside their regions, and `N` is the frame's pixel count (44_w2_depth1.md R200). -/
structure State.W2Built (s : State) : Prop where
  header : s.HeaderFacts 17
  built : Reg.rsW2D1 ∈ s.written
  count : Reg.pixelCount ∈ s.written
  tab : s.byteInside s.tab = true
  idx : s.byteInside s.idx = true
  lit : s.byteInside s.lit = true
  n_eq : s.n = s.fw * s.fh

section

variable {s t : State}

theorem State.w2Built_iff : s.W2Built ∧ s.k < s.n ↔ s.HeaderFacts 17 ∧ s.w2Running = true := by
  simp only [State.w2Running, Bool.and_eq_true, State.has_cons, State.has_nil, and_true, decide_eq_true_eq]
  constructor
  · rintro ⟨h, hk⟩
    exact ⟨h.header, ⟨⟨⟨⟨⟨h.built, h.count⟩, h.tab⟩, h.idx⟩, h.lit⟩, h.n_eq⟩, hk⟩
  · rintro ⟨hh, ⟨⟨⟨⟨⟨hb, hc⟩, ht⟩, hi⟩, hl⟩, hn⟩, hk⟩
    exact ⟨⟨hh, hb, hc, ht, hi, hl, hn⟩, hk⟩

theorem State.stageOk_w2Index (hs : s.seq.stage = .w2Index) : s.stageOk = true ↔ s.W2Built ∧ s.k < s.n := by
  rw [State.w2Built_iff, State.headerFacts_iff]
  simp only [State.stageOk, hs, Bool.and_eq_true]

theorem State.stageOk_w2Sym {idx : Nat} (hs : s.seq.stage = .w2Sym idx) :
    s.stageOk = true ↔ s.W2Built ∧ s.k < s.n := by
  rw [State.w2Built_iff, State.headerFacts_iff]
  simp only [State.stageOk, hs, Bool.and_eq_true]

theorem Evolves.memHas {mem : CurMem} (h : Evolves s t) (hm : s.memHas mem = true) : t.memHas mem = true := by
  cases mem with
  | packet => rfl
  | ibuf =>
    simp only [State.memHas, State.has_cons, State.has_nil, and_true] at hm ⊢
    exact ⟨h.written _ hm.1, h.written _ hm.2⟩

/-- A cursor that the work does not move stands where it stood. -/
theorem Evolves.byteInside {c : ByteCursor} (h : Evolves s t) (hc : s.byteInside c = true) : t.byteInside c = true := by
  obtain ⟨hlo, hhi, hmem⟩ := State.byteInside_iff.mp hc
  obtain ⟨hm, hstop⟩ := Bool.and_eq_true_iff.mp hmem
  refine State.byteInside_iff.mpr ⟨hlo, hhi, Bool.and_eq_true_iff.mpr ⟨h.memHas hm, ?_⟩⟩
  rwa [h.keeps State.memLen (by intro u; funext m; cases m <;> rfl)]

theorem Evolves.w2Built (h : Evolves s t) (hs : s.W2Built) : t.W2Built where
  header := h.headerFacts hs.header
  built := h.written _ hs.built
  count := h.written _ hs.count
  tab := by rw [h.keeps State.tab]; exact h.byteInside hs.tab
  idx := h.idx_inside hs.idx
  lit := h.lit_inside hs.lit
  n_eq := by rw [h.keeps State.n, h.keeps State.fw, h.keeps State.fh]; exact hs.n_eq

theorem State.W2Built.setSeq (h : s.W2Built) (q : Seq) : State.W2Built { s with seq := q } :=
  ⟨h.header.setSeq q, h.built, h.count, h.tab, h.idx, h.lit, h.n_eq⟩

theorem Emitted.k_le_n (h : Emitted s t) (hk : s.k ≤ s.n) : t.k ≤ t.n := by
  have hn : t.n = s.n := by rw [h.rest]
  exact hn ▸ h.k_le hk

/-- Completion, or the next index value of a frame with pixels to come (44_w2_depth1.md R203, R210). -/
theorem State.w2Next_inv (hb : s.Busy) (h : s.W2Built) (hk : s.k ≤ s.n) : Yields s.w2Next fun t => t.inv = true := by
  refine .bind (s.rd_yields _ _) ?_
  rintro _ ⟨-, rfl⟩
  refine .bind (s.rd_yields _ _) ?_
  rintro _ ⟨-, rfl⟩
  refine .ite (fun _ => .ok (State.gotoComplete_inv hb h.header)) fun hne => .value fun _ =>
    .ite (fun _ => .ok (State.gotoComplete_inv hb h.header)) fun _ => .ok (hb.goto_inv nofun ?_)
  exact (State.stageOk_w2Index rfl).mpr ⟨h.setSeq _, Nat.lt_of_le_of_ne hk hne⟩

/-- The start of the depth-1 pass (44_w2_depth1.md R200). -/
theorem State.startW2D1_inv {mem : CurMem} {b e : Nat} (hb : s.Busy) (hh : s.HeaderFacts 17)
    (hm : s.memHas mem = true) (he : e ≤ s.memLen mem) : Yields (s.startW2D1 mem b e) fun t => t.inv = true := by
  have hbuild : Yields (s.buildW2D1 mem b e) fun t => ∃ g, w2Ok g b e = true ∧
      t = State.mark { s with
        tab := byteCursorOver g.tab mem, idx := byteCursorOver g.idx mem, lit := byteCursorOver g.lit mem } .rsW2D1 := by
    refine .value fun _ => ?_
    split
    · exact .error
    · exact .bind (require_yields _ _) fun _ hg => .ok ⟨_, hg, rfl⟩
  refine .bind hbuild ?_
  rintro _ ⟨g, hg, rfl⟩
  refine .bind (State.dims_yields _) ?_
  rintro _ ⟨-, rfl⟩
  simp only [w2Ok, w2All, Bool.and_eq_true, List.all_cons, List.all_nil, and_true] at hg
  obtain ⟨⟨⟨htab, hidx, hlit⟩, -⟩, -⟩ := hg
  refine State.w2Next_inv ⟨⟨hb.cfg, hb.canonical, hb.s_le, hb.p_le, hb.dt_length⟩, hb.busy⟩ ?_ (Nat.zero_le _)
  have inside {r : Region} (hr : regionWithin b e r = true) : s.byteInside (byteCursorOver r mem) = true :=
    State.byteInside_over hr hm he
  exact {
    header := hh.of_agrees rfl (fun _ hq => State.mem_mark_of_mem (State.mem_mark_of_mem hq)) (.refl _ _)
    built := State.mem_mark_of_mem State.mem_mark_self
    count := State.mem_mark_self
    tab := State.byteInside_mark (State.byteInside_mark (r := .rsW2D1) (inside htab))
    idx := State.byteInside_mark (State.byteInside_mark (r := .rsW2D1) (inside hidx))
    lit := State.byteInside_mark (State.byteInside_mark (r := .rsW2D1) (inside hlit))
    n_eq := rfl }

variable (hb : s.Busy) (hok : s.stageOk = true)

include hb hok

theorem execValue_inv (v : Nat) : MeetsInv (execValue v s) := by
  refine .finish hb.toSound (.bind (expectStage_yields s .w2Index) fun _ hs =>
    .bind (s.skipBytes_yields .idx _) fun t ht => .ok ?_)
  obtain ⟨h, hk⟩ := (State.stageOk_w2Index hs).mp hok
  rw [← ht.keeps State.k, ← ht.keeps State.n] at hk
  exact (ht.evolves.busy hb).goto_inv nofun ((State.stageOk_w2Sym rfl).mpr ⟨(ht.evolves.w2Built h).setSeq _, hk⟩)

theorem execW2Lit_inv (q : Word) : MeetsInv (execW2Lit q s) := by
  refine .finish hb.toSound (.bind (expectStage_yields s (.w2Sym 0)) fun _ hs =>
    .bind (s.skipBytes_yields .lit 4) fun t ht => .bind (t.emitPair_yields q) fun u hu => ?_)
  obtain ⟨h, hk⟩ := (State.stageOk_w2Sym hs).mp hok
  rw [← ht.keeps State.k, ← ht.keeps State.n] at hk
  have hwork := ht.evolves.trans hu.evolves
  exact State.w2Next_inv (hwork.busy hb) (hwork.w2Built h) (hu.k_le_n (Nat.le_of_lt hk))

theorem execW2Run_inv (idx run : Nat) : MeetsInv (execW2Run idx run s) := by
  refine .finish hb.toSound (.bind (expect_yields _) fun _ hs => .value fun _ => .value fun _ =>
    .value fun entry => ?_)
  obtain ⟨h, hk⟩ := (State.stageOk_w2Sym (of_decide_eq_true (Bool.and_eq_true_iff.mp hs).1)).mp hok
  have h1 : Evolves s (State.mark { s with entry := entry } .entry) :=
    (evolves_update id id s.mask s.k s.run s.ipos s.dist entry).trans (evolves_mark _ _)
  refine .bind (State.skipBytes_yields _ .run _) fun t ht => .value fun _ => .value fun _ => ?_
  have hk : t.k < t.n := by
    rw [ht.keeps State.k, ht.keeps State.n]
    exact hk
  have h2 : Evolves t (State.mark { t with run := run } .run) :=
    (evolves_update id id t.mask t.k run t.ipos t.dist t.entry).trans (evolves_mark _ _)
  refine .bind (State.emitPairs_yields _ _ _) fun u hu => ?_
  have hwork := ((h1.trans ht.evolves).trans h2).trans hu.evolves
  exact State.w2Next_inv (hwork.busy hb) (hwork.w2Built h) (hu.k_le_n (Nat.le_of_lt hk))

end
end Sys2Proof.Machine

namespace Sys2Proof.Machine

open Sys2Proof

/-! ## W2 depth 2 keeps the invariant -/

/-- `W2.D2` runs: P14 has a value, and the cursors stand inside their regions (45_w2_depth2.md R220). -/
structure State.D2Built (s : State) : Prop where
  header : s.HeaderFacts 17
  coding : s.cfg.d2.isSome = true
  built : Reg.rsW2D2 ∈ s.written
  size : Reg.size ∈ s.written
  ibuf : Reg.ibuf ∈ s.written
  ipos : Reg.ipos ∈ s.written
  dist : Reg.dist ∈ s.written
  d2b : s.bitInside (s.bitCur .d2b) = true
  d2 : s.bankInside s.d2 = true

/-- `t` is `s` after work that appended `n` bytes to `IBUF`. -/
def Appended (n : Nat) (s t : State) : Prop := Evolves s t ∧ t.ipos = s.ipos + n

section

variable {s t u : State}

theorem State.d2Built_iff : s.D2Built ↔ s.headerUpTo 17 = true ∧ s.d2Running = true := by
  rw [← State.headerFacts_iff]
  simp only [State.d2Running, Bool.and_eq_true, State.has_cons, State.has_nil, and_true]
  constructor
  · intro h
    exact ⟨h.header, ⟨⟨h.coding, h.built, h.size, h.ibuf, h.ipos, h.dist⟩, h.d2b⟩, h.d2⟩
  · rintro ⟨hh, ⟨⟨hc, hb, hz, hi, hp, hd⟩, hbits⟩, hbank⟩
    exact ⟨hh, hc, hb, hz, hi, hp, hd, hbits, hbank⟩

theorem Evolves.d2Built (h : Evolves s t) (hs : s.D2Built) : t.D2Built where
  header := h.headerFacts hs.header
  coding := (h.keeps (·.cfg.d2.isSome)).trans hs.coding
  built := h.written _ hs.built
  size := h.written _ hs.size
  ibuf := h.written _ hs.ibuf
  ipos := h.written _ hs.ipos
  dist := h.written _ hs.dist
  d2b := h.bit_inside _ hs.d2b
  d2 := h.d2_inside hs.d2

theorem State.D2Built.setSeq (h : s.D2Built) (q : Seq) : State.D2Built { s with seq := q } :=
  ⟨h.header.setSeq q, h.coding, h.built, h.size, h.ibuf, h.ipos, h.dist, h.d2b, h.d2⟩

/-! ### What the invariant says at the control points of a depth-2 frame -/

theorem State.stageOk_d2Strip1 (hs : s.seq.stage = .d2Strip1) : s.stageOk = true ↔ s.D2Built ∧ 16 ≤ s.size := by
  simp only [State.stageOk, hs, Bool.and_eq_true, State.d2Built_iff, decide_eq_true_eq]

theorem State.stageOk_d2Dist {strip : Strip} {j : Nat} (hs : s.seq.stage = .d2Dist strip j) :
    s.stageOk = true ↔ s.D2Built ∧ s.stripFits strip j = true := by
  simp only [State.stageOk, hs, Bool.and_eq_true, State.d2Built_iff]

theorem State.stageOk_d2Value {strip : Strip} {j : Nat} (hs : s.seq.stage = .d2Value strip j) :
    s.stageOk = true ↔ s.D2Built ∧ s.stripFits strip j = true := by
  simp only [State.stageOk, hs, Bool.and_eq_true, State.d2Built_iff]

theorem State.stageOk_d2Sel (hs : s.seq.stage = .d2Sel) : s.stageOk = true ↔ s.D2Built ∧ s.ipos + 16 ≤ s.size := by
  simp only [State.stageOk, hs, Bool.and_eq_true, State.d2Built_iff, decide_eq_true_eq]

theorem State.stageOk_d2Body {kind : StripKind} (hs : s.seq.stage = .d2Body kind) :
    s.stageOk = true ↔ s.D2Built ∧ s.ipos + 16 ≤ s.size := by
  simp only [State.stageOk, hs, Bool.and_eq_true, State.d2Built_iff, decide_eq_true_eq]

theorem State.stageOk_d2Tail (hs : s.seq.stage = .d2Tail) :
    s.stageOk = true ↔ s.D2Built ∧ s.ipos < s.size ∧ s.size < s.ipos + 16 := by
  simp only [State.stageOk, hs, Bool.and_eq_true, State.d2Built_iff, decide_eq_true_eq, and_assoc]

theorem State.stripFits_iff {strip : Strip} {j : Nat} :
    s.stripFits strip j = true ↔ j < stripValues strip ∧ s.ipos + 2 * (stripValues strip - j) ≤ s.size := by
  simp [State.stripFits]

/-- A value starts with its distance update or at once (45_w2_depth2.md R222, R224). -/
theorem State.stripStage_inv {strip : Strip} {j : Nat} (hb : s.Busy) (h : s.D2Built)
    (hfit : s.stripFits strip j = true) : (s.goto (stripStage strip j)).inv = true := by
  unfold stripStage
  split
  · exact hb.goto_inv nofun ((State.stageOk_d2Dist rfl).mpr ⟨h.setSeq _, hfit⟩)
  · exact hb.goto_inv nofun ((State.stageOk_d2Value rfl).mpr ⟨h.setSeq _, hfit⟩)

/-- The strip loop: a later strip, the tail, or the nested pass (45_w2_depth2.md R220, R233). -/
theorem State.d2Next_inv (hb : s.Busy) (h : s.D2Built) : Yields s.d2Next fun t => t.inv = true := by
  refine .bind (s.rd_yields _ _) ?_
  rintro _ ⟨-, rfl⟩
  refine .bind (s.rd_yields _ _) ?_
  rintro _ ⟨-, rfl⟩
  refine .ite (fun hfit => .ok (hb.goto_inv nofun ((State.stageOk_d2Sel rfl).mpr ⟨h.setSeq _, hfit⟩))) fun hnot =>
    .ite (fun hlt => .ok (hb.goto_inv nofun ((State.stageOk_d2Tail rfl).mpr ⟨h.setSeq _, hlt, Nat.lt_of_not_le hnot⟩)))
      fun _ => State.startW2D1_inv hb h.header ?_ (Nat.le_refl _)
  exact State.has_cons.mpr ⟨h.ibuf, State.has_cons.mpr ⟨h.size, State.has_nil s⟩⟩

/-- After value `j` of a strip: the next value fits, or the next strip follows. -/
theorem State.valueDone_inv {strip : Strip} {j : Nat} (hb : s.Busy) (h : s.D2Built)
    (hfit : s.ipos + 2 * (stripValues strip - (j + 1)) ≤ s.size) :
    Yields (s.valueDone strip j) fun t => t.inv = true :=
  .ite (fun hj => .ok (State.stripStage_inv hb h (State.stripFits_iff.mpr ⟨hj, hfit⟩))) fun _ => State.d2Next_inv hb h

/-! ### Writes to `IBUF` are work -/

theorem State.putIbuf_evolves (s : State) (a : Nat) (b : Byte) :
    Yields (s.putIbuf a b) fun t => Evolves s t ∧ t.ipos = s.ipos := by
  refine .bind (s.rd_yields _ _) ?_
  rintro _ ⟨-, rfl⟩
  exact .value fun _ => .ite (fun _ => .ok
    ⟨evolves_update id (Store.wf_set _ _) s.mask s.k s.run s.ipos s.dist s.entry, rfl⟩) fun _ => .error

theorem State.putIbufBytes_evolves (s : State) (a : Nat) (bs : List Byte) :
    Yields (s.putIbufBytes a bs) (Evolves s) := by
  induction bs generalizing s a with
  | nil => exact .ok (.refl s)
  | cons b bs ih => exact .bind (s.putIbuf_evolves a b) fun t ht => (ih t (a + 1)).mono fun _ hu => ht.1.trans hu

theorem State.copyBack_evolves (s : State) (dist a n : Nat) : Yields (s.copyBack dist a n) (Evolves s) := by
  induction n generalizing s a with
  | zero => exact .ok (.refl s)
  | succ n ih =>
    exact .value fun b => .bind (s.putIbuf_evolves a b) fun t ht => (ih t (a + 1)).mono fun _ hu => ht.1.trans hu

/-- The write position moves past what has been written. -/
theorem Evolves.advance (h : Evolves s t) (p : Nat) : Evolves s { t with ipos := p } :=
  h.trans (evolves_update id id t.mask t.k t.run p t.dist t.entry)

theorem State.appendIbuf_yields (s : State) (bs : List Byte) : Yields (s.appendIbuf bs) (Appended bs.length s) := by
  refine .bind (s.rd_yields _ _) ?_
  rintro _ ⟨-, rfl⟩
  exact .bind (s.putIbufBytes_evolves _ _) fun t ht => .ok ⟨ht.advance _, rfl⟩

theorem State.needSource_yields (s : State) : Yields s.needSource fun x => x = (s.ipos, s.dist) := by
  refine .bind (s.rd_yields _ _) ?_
  rintro _ ⟨-, rfl⟩
  refine .bind (s.rd_yields _ _) ?_
  rintro _ ⟨-, rfl⟩
  exact .value fun _ => .ok rfl

theorem State.appendBack_yields (s : State) (n : Nat) : Yields (s.appendBack n) (Appended n s) := by
  refine .bind s.needSource_yields ?_
  rintro _ rfl
  exact .bind (s.copyBack_evolves _ _ _) fun t ht => .ok ⟨ht.advance _, rfl⟩

/-- Reads before the append. -/
theorem Appended.afterReads {n : Nat} (h : Appended n t u) (ht : Reads s t) : Appended n s u :=
  ⟨ht.evolves.trans h.1, by rw [h.2, ht.keeps State.ipos]⟩

/-- A value of two bytes has been appended: the strip goes on (45_w2_depth2.md R222, R229). -/
theorem Appended.valueDone_inv {strip : Strip} {j : Nat} (h : Appended 2 s t) (hb : s.Busy) (hd : s.D2Built)
    (hfit : s.stripFits strip j = true) : Yields (t.valueDone strip j) fun t => t.inv = true := by
  obtain ⟨hwork, hpos⟩ := h
  obtain ⟨hj, hfit⟩ := State.stripFits_iff.mp hfit
  refine State.valueDone_inv (hwork.busy hb) (hwork.d2Built hd) ?_
  rw [hpos, hwork.keeps State.size]
  omega

/-! ### The meanings -/

theorem State.d2Here_yields (s : State) (g : Stage) : Yields (s.d2Here g) fun _ => s.seq.stage = g :=
  .bind (expectStage_yields s g) fun _ hs => ⟨fun _ _ => hs⟩

variable (hb : s.Busy) (hok : s.stageOk = true)

include hb hok

theorem execD2Strip1_inv (q : Word) : MeetsInv (execD2Strip1 q s) := by
  refine .finish hb.toSound (.bind (s.d2Here_yields _) fun _ hs => .bind (s.skipBytes_evolves .d2l 4) fun t ht =>
    .bind (t.putIbufBytes_evolves _ _) fun u hu => .ok ?_)
  obtain ⟨h, hfit⟩ := (State.stageOk_d2Strip1 hs).mp hok
  have hwork : Evolves s (State.mark { u with ipos := 4 } .ipos) :=
    ((ht.trans hu).advance 4).trans (evolves_mark _ _)
  refine State.stripStage_inv (hwork.busy hb) (hwork.d2Built h) (State.stripFits_iff.mpr ⟨by decide, ?_⟩)
  rw [hwork.keeps State.size]
  exact hfit

theorem execD2Dist_inv (flag : Bool) (update : DistUpdate) : MeetsInv (execD2Dist flag update s) := by
  refine .finish hb.toSound ?_
  split
  · rename_i strip j hs
    obtain ⟨h, hfit⟩ := (State.stageOk_d2Dist hs).mp hok
    have done {t : State} (ht : Appended 0 s t) : (t.goto (.d2Value strip j)).inv = true := by
      refine (ht.1.busy hb).goto_inv nofun ((State.stageOk_d2Value rfl).mpr ⟨(ht.1.d2Built h).setSeq _, ?_⟩)
      rw [State.stripFits_iff] at hfit ⊢
      rw [State.goto_ipos, State.goto_size, ht.2, ht.1.keeps State.size]
      exact hfit
    have update {t : State} (ht : Reads s t) (v : Nat) : Appended 0 s (State.mark { t with dist := v } .dist) :=
      ⟨(ht.evolves.trans (evolves_update id id t.mask t.k t.run t.ipos v t.entry)).trans (evolves_mark _ _),
        ht.keeps State.ipos⟩
    refine .value fun d => .bind (s.skipBits_yields .d2b 1) fun t ht => ?_
    dsimp only
    split
    · exact .ok (done ⟨ht.evolves, ht.keeps State.ipos⟩)
    · exact .bind (t.skipBytes_yields .d2dist 1) fun u hu => .ok (done (update (ht.trans hu) _))
    · exact .bind (t.skipBytes_yields .d2dist 2) fun u hu => .ok (done (update (ht.trans hu) _))
    · exact .error
  · exact .error

theorem execD2Value_inv (code : List Bool) (payload : D2Payload) : MeetsInv (execD2Value code payload s) := by
  refine .finish hb.toSound ?_
  split
  · rename_i strip j hs
    obtain ⟨h, hfit⟩ := (State.stageOk_d2Value hs).mp hok
    refine .value fun d => .bind (s.skipBits_yields .d2b _) fun t ht => ?_
    cases payload with
    | backref =>
      exact .value fun _ => .bind (t.appendBack_yields 2) fun u hu => (hu.afterReads ht).valueDone_inv hb h hfit
    | xor key =>
      refine .value fun _ => .bind (t.skipBytes_yields .d2key 1) fun u hu => ?_
      split
      · exact .error
      · exact .value fun _ => .bind (u.appendIbuf_yields _) fun v hv =>
          (hv.afterReads (ht.trans hu)).valueDone_inv hb h hfit
    | lit v =>
      exact .value fun _ => .bind (t.skipBytes_yields .d2l 2) fun u hu => .bind (u.appendIbuf_yields _) fun v hv =>
        (hv.afterReads (ht.trans hu)).valueDone_inv hb h hfit
  · exact .error

theorem execD2StripSel_inv (code : List Bool) (kind : StripKind) : MeetsInv (execD2StripSel code kind s) := by
  refine .finish hb.toSound (.bind (s.d2Here_yields _) fun _ hs => .value fun _ =>
    .bind (s.skipBits_yields .d2b _) fun t ht => .ok ?_)
  obtain ⟨h, hfit⟩ := (State.stageOk_d2Sel hs).mp hok
  rw [← ht.keeps State.ipos, ← ht.keeps State.size] at hfit
  exact (ht.evolves.busy hb).goto_inv nofun ((State.stageOk_d2Body rfl).mpr ⟨(ht.evolves.d2Built h).setSeq _, hfit⟩)

theorem execD2Verb_inv (bytes : List Byte) : MeetsInv (execD2Verb bytes s) := by
  refine .finish hb.toSound (.bind (s.d2Here_yields _) fun _ hs => .value fun _ =>
    .bind (s.skipBytes_evolves .d2l 16) fun t ht => .bind (t.appendIbuf_yields bytes) fun u hu => ?_)
  have hwork := ht.trans hu.1
  exact State.d2Next_inv (hwork.busy hb) (hwork.d2Built ((State.stageOk_d2Body hs).mp hok).1)

theorem execD2Back_inv : MeetsInv (execD2Back s) :=
  .finish hb.toSound (.bind (s.d2Here_yields _) fun _ hs => .bind (s.appendBack_yields 16) fun _ ht =>
    State.d2Next_inv (ht.1.busy hb) (ht.1.d2Built ((State.stageOk_d2Body hs).mp hok).1))

theorem execD2Strip2_inv (fromBits : Bool) (mask : Byte) : MeetsInv (execD2Strip2 fromBits mask s) := by
  refine .finish hb.toSound (.bind (s.d2Here_yields _) fun _ hs => .value fun _ => ?_)
  obtain ⟨h, hfit⟩ := (State.stageOk_d2Body hs).mp hok
  have done {t : State} (ht : Reads s t) : (t.goto (stripStage (.later mask) 0)).inv = true := by
    refine State.stripStage_inv (ht.evolves.busy hb) (ht.evolves.d2Built h) (State.stripFits_iff.mpr ⟨Nat.zero_lt_succ 7, ?_⟩)
    rw [ht.keeps State.ipos, ht.keeps State.size]
    exact hfit
  exact .ite (fun _ => .bind (s.skipBits_yields .d2b 8) fun t ht => .ok (done ht)) fun _ =>
    .bind (s.skipBytes_yields .d2mask 1) fun t ht => .ok (done ht)

theorem execD2Tail_inv (bytes : List Byte) : MeetsInv (execD2Tail bytes s) := by
  refine .finish hb.toSound (.bind (s.d2Here_yields _) fun _ hs => .value fun _ => .value fun _ => .value fun _ =>
    .bind (s.skipBytes_evolves .d2l _) fun t ht => .bind (t.appendIbuf_yields bytes) fun u hu => ?_)
  have hwork := ht.trans hu.1
  exact State.d2Next_inv (hwork.busy hb) (hwork.d2Built ((State.stageOk_d2Tail hs).mp hok).1)

end
end Sys2Proof.Machine

namespace Sys2Proof.Machine

open Sys2Proof

/-! ## The orchestrator keeps the invariant -/

section

variable {s t : State}

/-- `RS.W2D2` is built over regions that passed their checks (41_readers.md R143). -/
theorem State.buildW2D2_yields (s : State) (d : D2Coding) : Yields (s.buildW2D2 d) fun x =>
    ∃ g, d2Ok g s.hdr.headerSize.toNat s.hdr.dataEnd = true ∧
      x.2 = State.mark { s with
        d2b := bitCursorOver g.bits .packet
        d2 := { p0 := byteCursorOver g.byte0 .packet, p1 := byteCursorOver g.byte1 .packet,
                p2 := byteCursorOver g.byte2 .packet, p3 := byteCursorOver g.byte3 .packet } } .rsW2D2 := by
  refine .bind (s.rd_yields _ _) ?_
  rintro _ ⟨-, rfl⟩
  refine .bind (s.rd_yields _ _) ?_
  rintro _ ⟨-, rfl⟩
  split
  · exact .error
  · exact .bind (require_yields _ _) fun _ hg => .ok ⟨_, hg, rfl⟩

variable (hb : s.Busy) (hok : s.stageOk = true)

include hb hok

theorem execDispatchW2D1_inv : MeetsInv (execDispatchW2D1 s) := by
  refine .finish hb.toSound (.bind (s.expectBranch_yields _) fun _ hs => .value fun _ => ?_)
  have hh := (State.stageOk_dispatch hs).mp hok
  exact State.startW2D1_inv (s := s.enterUnit .w2d1 []) (hb.enterUnit _ rfl) (hh.enterUnit _ _) rfl
    (hh.dataEnd_le (by decide))

theorem execDispatchW2D2_inv : MeetsInv (execDispatchW2D2 s) := by
  unfold execDispatchW2D2
  refine .finish hb.toSound (.bind (s.expectBranch_yields _) fun _ hs => ?_)
  have hh := (State.stageOk_dispatch hs).mp hok
  have hlen : s.hdr.dataEnd ≤ s.len := hh.dataEnd_le (by decide)
  refine .bind (Q := fun d => s.cfg.d2 = some d) ⟨fun d hd => State.coding_eq_ok.mp hd⟩ fun d hd =>
    .bind (State.buildW2D2_yields _ d) ?_
  rintro ⟨size, t⟩ ⟨g, hg, rfl⟩
  dsimp -zeta only
  refine .value fun _ => ?_
  simp only [d2Ok, Bool.and_eq_true, d2All, List.all_cons, List.all_nil, and_true] at hg
  obtain ⟨⟨⟨hbits, hp0, hp1, hp2, hp3⟩, -⟩, -⟩ := hg
  extract_lets s1 s2 s3 s4
  have hb4 : s4.Busy := by
    obtain ⟨⟨hpkt, -, -, href⟩, hout⟩ := State.canonical_iff.mp hb.canonical
    exact ⟨⟨hb.cfg, State.canonical_iff.mpr ⟨⟨hpkt, rfl, rfl, href⟩, hout⟩, Nat.zero_le _, Nat.zero_le _,
      hb.dt_length⟩, hb.busy⟩
  have hw (q : Reg) (hq : q ∈ s3.written) : q ∈ s4.written := State.mem_mark_of_mem hq
  have hw3 (q : Reg) (hq : q ∈ s2.written) : q ∈ s3.written := State.mem_mark_of_mem hq
  have hw2 (q : Reg) (hq : q ∈ s1.written) : q ∈ s2.written := State.mem_mark_of_mem hq
  have hd4 : s4.D2Built := {
    header := hh.of_agrees rfl (fun q hq => hw q (hw3 q (hw2 q (State.mem_mark_of_mem (State.mem_mark_of_mem hq)))))
      (.refl _ _)
    coding := Option.isSome_iff_exists.mpr ⟨d, hd⟩
    built := hw _ (hw3 _ (hw2 _ (State.mem_mark_of_mem State.mem_mark_self)))
    size := hw _ (hw3 _ (hw2 _ State.mem_mark_self))
    ibuf := hw _ (hw3 _ State.mem_mark_self)
    ipos := hw _ State.mem_mark_self
    dist := State.mem_mark_self
    d2b := State.bitInside_over hbits hlen
    d2 := State.bankInside_over hp0 hp1 hp2 hp3 hlen }
  refine .ite (fun hfit => .ok (hb4.goto_inv nofun ?_)) fun _ => State.d2Next_inv hb4 hd4
  exact (State.stageOk_d2Strip1 rfl).mpr ⟨hd4.setSeq _, hfit⟩

theorem State.orchestrate_inv (hs : s.seq.stage = .orchestrate) : Yields s.orchestrate fun t => t.inv = true := by
  have hh := (State.stageOk_orchestrate hs).mp hok
  exact .value fun ⟨_, _⟩ => .value fun _ => .value fun _ => .value fun _ => .ite (fun _ => .error) fun _ =>
    .ok (hb.goto_inv nofun ((State.stageOk_dispatch rfl).mpr (hh.setSeq _)))

omit hb hok in
/-- The bytes of a frame are listed at rising addresses among those of the host's buffer (20_memory.md R53). -/
theorem writeOut_rising (e : Endian) (stride w h : Nat) (f : Pixels) {buf : Memory}
    (hbuf : Store.rising 0 buf = true) : Store.rising 0 (writeOut e stride w h f buf) = true := by
  unfold writeOut
  generalize raster w h = l
  induction l generalizing buf with
  | nil => exact hbuf
  | cons p l ih => exact ih (Store.rising_put _ (Nat.zero_le _) (Store.rising_put _ (Nat.zero_le _) hbuf))

omit hok in
theorem State.complete_inv : Yields s.complete fun t => t.inv = true := by
  obtain ⟨⟨hpkt, hibuf, hframe, -⟩, hout⟩ := State.canonical_iff.mp hb.canonical
  refine .value fun ⟨w, h⟩ => .value fun _ => .value fun _ => .value fun _ => .ok ?_
  have hfinal : Store.wf (s.finalFrame w h) = true := State.finalFrame_wf hframe
  refine State.Sound.inv_idle ⟨hb.cfg, ?_, hb.s_le, hb.p_le, hb.dt_length⟩ nofun rfl
  exact State.canonical_iff.mpr ⟨⟨hpkt, hibuf, hfinal, hfinal⟩, writeOut_rising _ _ _ _ _ hout⟩

end

/-! ## The host's commands keep the invariant -/

section

variable {s t : State}

theorem execDecode_inv (hs : s.Sound) (packet : List Byte) (stride cap : Nat) :
    MeetsInv (execDecode packet stride cap s) := by
  obtain ⟨⟨-, hibuf, hframe, href⟩, hout⟩ := State.canonical_iff.mp hs.canonical
  refine .finish hs (.ite (fun _ => .error) fun _ => .ite (fun _ => .error) fun _ => .ok ?_)
  refine State.Busy.inv ⟨⟨hs.cfg, ?_, Nat.zero_le _, Nat.zero_le _, hs.dt_length⟩, rfl⟩ nofun rfl
  exact State.canonical_iff.mpr ⟨⟨Memory.wf_setBytes 0 packet rfl, hibuf, hframe, href⟩, hout⟩

theorem execReset_inv (hs : s.Sound) : MeetsInv (execReset s) := by
  obtain ⟨⟨hpkt, -, -, -⟩, hout⟩ := State.canonical_iff.mp hs.canonical
  refine .finish hs (.ite (fun _ => .error) fun _ => .ok ?_)
  refine State.Sound.inv_idle ⟨hs.cfg, ?_, Nat.zero_le _, Nat.zero_le _, List.length_replicate⟩ nofun rfl
  exact State.canonical_iff.mpr ⟨⟨hpkt, rfl, rfl, rfl⟩, hout⟩

end

/-! ## Every step keeps the invariant -/

/-- Every meaning but those of the host's commands keeps the invariant of a running DECODE. -/
theorem exec_inv {s : State} (i : Instr) (hi : i.isCommand = false) (hb : s.Busy) (hok : s.stageOk = true) :
    MeetsInv (exec i s) := by
  cases i with
  | hdrLen => exact execHdrLen_inv hb hok
  | hdrMagic => exact execHdrMagic_inv hb hok
  | hdrVersion v => exact execHdrVersion_inv hb hok v
  | hdrRawType v => exact execHdrRawType_inv hb hok v
  | hdrFlagsAB a b => exact execHdrFlagsAB_inv hb hok a b
  | hdrDims w h => exact execHdrDims_inv hb hok w h
  | hdrFlagsCD c d => exact execHdrFlagsCD_inv hb hok c d
  | hdrAlphaPresent => exact execHdrAlphaPresent_inv hb hok
  | hdrAlphaLegacy raw => exact execHdrAlphaLegacy_inv hb hok raw
  | hdrAlphaModern raw mode pad => exact execHdrAlphaModern_inv hb hok raw mode pad
  | hdrAnim total current delay noRepeat pad => exact execHdrAnim_inv hb hok total current delay noRepeat pad
  | hdrIndex pad count => exact execHdrIndex_inv hb hok pad count
  | hdrSize => exact execHdrSize_inv hb hok
  | hdrXval => exact execHdrXval_inv hb hok
  | hdrDataEnd => exact execHdrDataEnd_inv hb hok
  | hdrQpGate => exact execHdrQpGate_inv hb hok
  | hdrFirst => exact execHdrFirst_inv hb hok
  | tile2Dir0 mask | tile2Dir1 mask | tile2Dir2 mask => exact .finish hb.toSound (State.dirTile2_inv hb hok _ mask)
  | tile2Edge => exact execTile2Edge_inv hb hok
  | pixCopy => exact execPixCopy_inv hb hok
  | pixRes0 i | pixRes1 i | pixRes2 i | pixRes3 i | pixRes4 i | pixRes5 i | pixRes6 i =>
    exact .finish hb.toSound (State.residual_inv hb hok _ _)
  | pixLit lit => exact execPixLit_inv hb hok lit
  | dtab signs mags => exact execDtab_inv hb hok signs mags
  | dtConst => exact execDtConst_inv hb hok
  | mbRefCopy => exact execMbRefCopy_inv hb hok
  | mbMvZero => exact execMbMvZero_inv hb hok
  | mbMv a b => exact execMbMv_inv hb hok a b
  | mbMcCopy => exact execMbMcCopy_inv hb hok
  | mbMcSub => exact execMbMcSub_inv hb hok
  | mbSub2 => exact execMbSub2_inv hb hok
  | gate => exact execGate_inv hb hok
  | s3Dir0 mask | s3Dir1 mask | s3Dir2 mask | s3ResRef mask | s3ResMv mask =>
    exact .finish hb.toSound (State.maskedSub3_inv hb hok _ mask)
  | s3Edge => exact execS3Edge_inv hb hok
  | s3CopyRef => exact execS3CopyRef_inv hb hok
  | s3CopyMv => exact execS3CopyMv_inv hb hok
  | s2Dir0 mask | s2Dir1 mask | s2Dir2 mask => exact .finish hb.toSound (State.dirSub2_inv hb hok _ mask)
  | s2Edge => exact execS2Edge_inv hb hok
  | embSkip1 => exact execEmbSkip1_inv hb
  | embCells => exact execEmbCells_inv hb hok
  | embLitCell lits => exact execEmbLitCell_inv hb hok lits
  | value v => exact execValue_inv hb hok v
  | w2Lit pair => exact execW2Lit_inv hb hok pair
  | w2Run idx run => exact execW2Run_inv hb hok idx run
  | d2Strip1 q => exact execD2Strip1_inv hb hok q
  | d2Value code payload => exact execD2Value_inv hb hok code payload
  | d2Dist flag update => exact execD2Dist_inv hb hok flag update
  | d2StripSel code kind => exact execD2StripSel_inv hb hok code kind
  | d2Verb bytes => exact execD2Verb_inv hb hok bytes
  | d2Back => exact execD2Back_inv hb hok
  | d2Strip2 fromBits mask => exact execD2Strip2_inv hb hok fromBits mask
  | d2Tail bytes => exact execD2Tail_inv hb hok bytes
  | dispatchIntra => exact execDispatchIntra_inv hb hok
  | dispatchInter => exact execDispatchInter_inv hb hok
  | dispatchW2D1 => exact execDispatchW2D1_inv hb hok
  | dispatchW2D2 => exact execDispatchW2D2_inv hb hok
  | dispatchExtra => exact .finish hb.toSound (.value fun _ => .error)
  | dispatchMode => exact .finish hb.toSound (.value fun _ => .error)
  | decode packet stride cap => cases hi
  | reset => cases hi

section

variable {s t : State}

/-- The step of a running DECODE that fetches keeps the invariant. -/
theorem State.runNext_inv (hb : s.Busy) (hok : s.stageOk = true) (hs : s.seq.stage ≠ .idle) : MeetsInv s.runNext := by
  intro t h
  obtain ⟨i, -, -, -, hi, h⟩ | ⟨e, rfl⟩ := State.runNext_busy hs h
  · exact exec_inv i hi hb hok t h
  · exact hb.fail_inv e

/-- An idle block that takes a command keeps the invariant. -/
theorem State.runNext_idle_inv (h : s.Sound) (hs : s.seq.stage = .idle) : MeetsInv s.runNext := by
  intro t ht
  unfold State.runNext at ht
  have hissue : s.issue.Sound := by
    rw [State.issue, if_pos hs]
    exact ⟨h.cfg, h.canonical, h.s_le, h.p_le, h.dt_length⟩
  split at ht
  · rename_i i hi
    obtain ⟨f, hf, hadm⟩ := s.fetch_yields.apply i hi
    obtain rfl : f = .command := by simpa [State.format, hs, eq_comm] using hf
    cases i with
    | decode packet stride cap => exact execDecode_inv hissue packet stride cap t ht
    | reset => exact execReset_inv hissue t ht
    | _ => cases hadm
  · obtain ht | ⟨e, -, rfl⟩ := finish_eq_next.mp ht
    · cases ht
    · exact h.fail_inv e

/-- From a state of the invariant every step leads to one. -/
theorem step_inv (h : s.inv = true) : MeetsInv (step s) := by
  by_cases hidle : s.seq.stage = .idle
  · intro t ht
    simp only [step, hidle] at ht
    split at ht
    · cases ht
      exact h
    · exact State.runNext_idle_inv (State.inv_iff.mp h).1 hidle t ht
  · obtain ⟨hb, hok⟩ := State.Busy.of_inv h hidle
    unfold step
    split
    · exact .finish hb.toSound (State.orchestrate_inv hb hok ‹_›)
    · exact .finish hb.toSound (State.partialFrame_inv hb hok ‹_›)
    · exact .finish hb.toSound (State.complete_inv hb)
    · exact absurd ‹_› hidle
    · exact State.runNext_inv hb hok hidle

end

/-- Settles O54: the work of a symbol keeps what the invariant says (`Evolves`), and each step of the sequencer lands at a
control point whose facts hold (`exec_inv`, `step_inv`). -/
theorem invariantStep : Obligations.InvariantStep := by
  unfold Obligations.InvariantStep
  intro s t h ht
  exact step_inv h t ht

end Sys2Proof.Machine

namespace Sys2Proof

open Sys2Proof.Machine

/-! ## The encoding of a field

Each read of the decoder takes exactly the bits or bytes that the encoder gives for its value, in both directions. -/

section

variable {x : Nat × List Bool} {n v : Nat} {bits : List Bool} {bytes : List Byte}

theorem length_msbBits (n v : Nat) : (msbBits n v).length = n := by
  induction n with
  | zero => rfl
  | succ n ih => simp [msbBits, ih]

theorem msbBits_succ (n v : Nat) : msbBits (n + 1) v = msbBits n (v / 2) ++ [v.testBit 0] := by
  induction n with
  | zero => rfl
  | succ n ih => rw [msbBits, ih, msbBits, Nat.testBit_succ]; rfl

theorem valueOfBits_append_bit (bits : List Bool) (b : Bool) :
    valueOfBits (bits ++ [b]) = 2 * valueOfBits bits + b.toNat := by
  simp [valueOfBits, shiftIn]

theorem valueOfBits_lt (bits : List Bool) : valueOfBits bits < 2 ^ bits.length := by
  induction bits using List.reverseRecOn with
  | nil => exact Nat.one_pos
  | append_singleton bits b ih =>
    have := b.toNat_le
    rw [valueOfBits_append_bit, List.length_append, List.length_singleton, Nat.pow_succ]
    omega

/-- The bits of the value of a field are the bits it was read from (41_readers.md R130). -/
theorem msbBits_valueOfBits (bits : List Bool) : msbBits bits.length (valueOfBits bits) = bits := by
  induction bits using List.reverseRecOn with
  | nil => rfl
  | append_singleton bits b ih =>
    have hdiv : (2 * valueOfBits bits + b.toNat) / 2 = valueOfBits bits := by
      have := b.toNat_lt
      omega
    have hbit : (2 * valueOfBits bits + b.toNat).testBit 0 = b := by cases b <;> simp
    rw [List.length_append, List.length_singleton, msbBits_succ, valueOfBits_append_bit, hdiv, hbit, ih]

/-- The value of the low `n` bits of `v` is `v`, when they are all of it. -/
theorem valueOfBits_msbBits (h : v < 2 ^ n) : valueOfBits (msbBits n v) = v := by
  induction n generalizing v with
  | zero => simp_all [msbBits, valueOfBits]
  | succ n ih =>
    rw [msbBits_succ, valueOfBits_append_bit, ih (by omega)]
    have hbit := Nat.toNat_testBit v 0
    omega

/-- As many bits as a field has, whatever follows them. -/
theorem takeBits_append (bits rest : List Bool) :
    takeBits bits.length (bits ++ rest) = .ok (valueOfBits bits, rest) := by
  simp [takeBits]

theorem takeBits_eq_ok : takeBits n bits = .ok x ↔ x.1 < 2 ^ n ∧ bits = msbBits n x.1 ++ x.2 := by
  constructor
  · intro h
    unfold takeBits at h
    split at h
    · cases h
      have hlen : (bits.take n).length = n := List.length_take_of_le ‹_›
      have hlt := valueOfBits_lt (bits.take n)
      have hbits := msbBits_valueOfBits (bits.take n)
      rw [hlen] at hlt hbits
      exact ⟨hlt, by rw [hbits, List.take_append_drop]⟩
    · cases h
  · rintro ⟨hlt, rfl⟩
    have h := takeBits_append (msbBits n x.1) x.2
    rwa [length_msbBits, valueOfBits_msbBits hlt] at h

theorem takeBit_eq_ok : takeBits 1 bits = .ok x ↔ ∃ b : Bool, x.1 = b.toNat ∧ bits = b :: x.2 := by
  rw [takeBits_eq_ok]
  constructor
  · rintro ⟨hlt, h⟩
    refine ⟨x.1.testBit 0, ?_, h⟩
    have := Nat.toNat_testBit x.1 0
    omega
  · rintro ⟨b, hb, h⟩
    rw [hb, h]
    cases b <;> exact ⟨by decide, rfl⟩

theorem takeBytes_eq_ok {x : List Byte × List Byte} :
    takeBytes n bytes = .ok x ↔ x.1.length = n ∧ bytes = x.1 ++ x.2 := by
  constructor
  · intro h
    unfold takeBytes at h
    split at h
    · cases h
      exact ⟨List.length_take_of_le ‹_›, (List.take_append_drop n bytes).symm⟩
    · cases h
  · obtain ⟨bs, rest⟩ := x
    rintro ⟨rfl, rfl⟩
    simp [takeBytes]

theorem takeU8_eq_ok {x : Byte × List Byte} : takeU8 bytes = .ok x ↔ bytes = x.1 :: x.2 := by
  cases bytes <;> simp [takeU8, Prod.ext_iff, eq_comm]

theorem bytes16_le16 (b0 b1 : Byte) : bytes16 (le16 b0 b1) = [b0, b1] :=
  congrArg₂ (fun x y => [x, y]) BitVec.extractLsb'_append_eq_right BitVec.extractLsb'_append_eq_left

theorem le16_extract (v : Half) : le16 (v.extractLsb' 0 8) (v.extractLsb' 8 8) = v :=
  BitVec.extractLsb'_append_extractLsb'

theorem bytes32_le32 (b0 b1 b2 b3 : Byte) : bytes32 (le32 b0 b1 b2 b3) = [b0, b1, b2, b3] := by
  have h0 : (b3 ++ b2 ++ b1 ++ b0).extractLsb' 0 8 = b0 := BitVec.extractLsb'_append_eq_right
  have h1 : (b3 ++ b2 ++ b1 ++ b0).extractLsb' 8 8 = b1 := by
    rw [BitVec.extractLsb'_append_eq_of_le (by decide)]
    exact BitVec.extractLsb'_append_eq_right
  have h2 : (b3 ++ b2 ++ b1 ++ b0).extractLsb' 16 8 = b2 := by
    rw [BitVec.extractLsb'_append_eq_of_le (by decide), BitVec.extractLsb'_append_eq_of_le (by decide)]
    exact BitVec.extractLsb'_append_eq_right
  have h3 : (b3 ++ b2 ++ b1 ++ b0).extractLsb' 24 8 = b3 := by
    rw [BitVec.extractLsb'_append_eq_of_le (by decide), BitVec.extractLsb'_append_eq_of_le (by decide)]
    exact BitVec.extractLsb'_append_eq_left
  show [(b3 ++ b2 ++ b1 ++ b0).extractLsb' 0 8, (b3 ++ b2 ++ b1 ++ b0).extractLsb' 8 8,
    (b3 ++ b2 ++ b1 ++ b0).extractLsb' 16 8, (b3 ++ b2 ++ b1 ++ b0).extractLsb' 24 8] = _
  rw [h0, h1, h2, h3]

theorem le32_extract (v : Word) :
    le32 (v.extractLsb' 0 8) (v.extractLsb' 8 8) (v.extractLsb' 16 8) (v.extractLsb' 24 8) = v := by
  rw [le32, BitVec.extractLsb'_append_extractLsb'_eq_extractLsb' (show 24 = 16 + 8 from rfl),
    BitVec.extractLsb'_append_extractLsb'_eq_extractLsb' (show 16 = 8 + 8 from rfl)]
  exact BitVec.extractLsb'_append_extractLsb' (w := 24)

theorem takeU16_eq_ok {x : Half × List Byte} : takeU16 bytes = .ok x ↔ bytes = bytes16 x.1 ++ x.2 := by
  constructor
  · intro h
    unfold takeU16 at h
    split at h
    · cases h
      rw [bytes16_le16]
      rfl
    · cases h
  · rintro rfl
    exact congrArg (fun v => Except.ok (v, x.2)) (le16_extract x.1)

theorem takeU32_eq_ok {x : Word × List Byte} : takeU32 bytes = .ok x ↔ bytes = bytes32 x.1 ++ x.2 := by
  constructor
  · intro h
    unfold takeU32 at h
    split at h
    · cases h
      rw [bytes32_le32]
      rfl
    · cases h
  · rintro rfl
    exact congrArg (fun v => Except.ok (v, x.2)) (le32_extract x.1)

theorem takeU16s_eq_ok {x : List Half × List Byte} :
    takeU16s n bytes = .ok x ↔ x.1.length = n ∧ bytes = bytesOfHalves x.1 ++ x.2 := by
  obtain ⟨vs, rest⟩ := x
  induction n generalizing bytes vs with
  | zero => cases vs <;> simp [takeU16s, bytesOfHalves, eq_comm]
  | succ n ih =>
    cases vs with
    | nil => simp [takeU16s, Act.bind_eq_ok]
    | cons v vs =>
      simp [takeU16s, Act.bind_eq_ok, takeU16_eq_ok, ih, bytesOfHalves, and_comm]

theorem valueBytes_add (v : Nat) : valueBytes (v + 255) = 0xFF :: valueBytes v := by
  rw [valueBytes, Nat.add_div_right v (by decide), Nat.add_mod_right, List.replicate_succ]
  rfl

/-- A continuation value ends at its first byte below `0xFF` (30_encoding.md R83). -/
theorem valueBytes_of_lt {v : Nat} (h : v < 255) : valueBytes v = [BitVec.ofNat 8 v] := by
  rw [valueBytes, Nat.div_eq_of_lt h, Nat.mod_eq_of_lt h]
  rfl

theorem ofNat_ne_ff {v : Nat} (h : v < 255) : BitVec.ofNat 8 v ≠ 0xFF := by bv_omega

/-- A continuation value ends at its first byte below `0xFF` (30_encoding.md R83). -/
theorem takeValue_eq_ok {x : Nat × List Byte} : takeValue bytes = .ok x ↔ bytes = valueBytes x.1 ++ x.2 := by
  constructor
  · intro h
    induction bytes generalizing x with
    | nil => cases h
    | cons b bytes ih =>
      rw [takeValue] at h
      split at h
      · obtain ⟨y, hy, ⟨⟩⟩ := Act.bind_eq_ok.mp h
        rw [valueBytes_add, List.cons_append, ← ih hy, ‹b = 0xFF›]
      · cases h
        have hlt : b.toNat < 255 := by bv_omega
        rw [valueBytes_of_lt hlt, BitVec.ofNat_toNat, BitVec.setWidth_eq]
        rfl
  · obtain ⟨v, rest⟩ := x
    rintro rfl
    induction v using Nat.strongRecOn with
    | ind v ih =>
      rcases Nat.lt_or_ge v 255 with hv | hv
      · have hmod : v % 256 = v := Nat.mod_eq_of_lt (by omega)
        rw [valueBytes_of_lt hv, List.singleton_append, takeValue, if_neg (ofNat_ne_ff hv), BitVec.toNat_ofNat, hmod]
      · obtain ⟨w, rfl⟩ := Nat.exists_eq_add_of_le' hv
        rw [valueBytes_add]
        simp [takeValue, ih w (by omega)]

/-- A code tree takes exactly one of its codes (30_encoding.md R88). -/
theorem takeCode_eq_ok {α : Type} [DecidableEq α] {tree : PrefixCode α} {bits : List Bool}
    {x : List Bool × α × List Bool} :
    takeCode tree bits = .ok x ↔ tree.spells x.1 x.2.1 = true ∧ bits = x.1 ++ x.2.2 := by
  constructor
  · intro h
    refine ⟨(takeCode_yields tree bits).apply x h, ?_⟩
    induction tree generalizing bits x with
    | leaf a =>
      rw [takeCode] at h
      cases h
      rfl
    | node zero one hz ho =>
      cases bits with
      | nil => cases h
      | cons b bits =>
        obtain ⟨y, hy, ⟨⟩⟩ := Act.bind_eq_ok.mp h
        cases b
        · exact congrArg (false :: ·) (hz hy)
        · exact congrArg (true :: ·) (ho hy)
  · rintro ⟨h, rfl⟩
    exact takeCode_of_spells x.2.2 h

end

/-! ## The streams that the decoder accepts -/

/-- What a bit cursor has left. -/
def Streams.bits (st : Streams) : BitCur → List Bool
  | .bit1 => st.bit1
  | .bit2 => st.bit2
  | .d2b => st.d2b

/-- What a byte source has left. -/
def Streams.bytes (st : Streams) : ByteCur → List Byte
  | .header => st.header
  | .maskc => st.maskc
  | .litc => st.litc
  | .tabc => st.tabc
  | .edgelit => st.edgelit
  | .idx => st.idx
  | .lit => st.lit
  | .run => st.run
  | .d2l => st.d2l
  | .d2dist => st.d2dist
  | .d2key => st.d2key
  | .d2mask => st.d2mask

/-- The streams with `rest` left of a bit cursor. -/
def Streams.setBits (st : Streams) (rest : List Bool) : BitCur → Streams
  | .bit1 => { st with bit1 := rest }
  | .bit2 => { st with bit2 := rest }
  | .d2b => { st with d2b := rest }

/-- The streams with `rest` left of a byte source. -/
def Streams.setBytes (st : Streams) (rest : List Byte) : ByteCur → Streams
  | .header => { st with header := rest }
  | .maskc => { st with maskc := rest }
  | .litc => { st with litc := rest }
  | .tabc => { st with tabc := rest }
  | .edgelit => { st with edgelit := rest }
  | .idx => { st with idx := rest }
  | .lit => { st with lit := rest }
  | .run => { st with run := rest }
  | .d2l => { st with d2l := rest }
  | .d2dist => { st with d2dist := rest }
  | .d2key => { st with d2key := rest }
  | .d2mask => { st with d2mask := rest }

/-- The streams begin with these reads. -/
def Begins (st : Streams) (reads : List Read) : Prop := ∃ rest, layReads reads rest = st

section

variable {st : Streams} {reads : List Read}

theorem Begins.nil : Begins st [] := ⟨st, rfl⟩

/-- Bits in front of what a bit cursor has left, then the reads from there. -/
theorem Begins.bits {c : BitCur} {bs rest : List Bool} (h : st.bits c = bs ++ rest)
    (ht : Begins (st.setBits rest c) reads) : Begins st (.bits c bs :: reads) := by
  obtain ⟨r, hr⟩ := ht
  refine ⟨r, ?_⟩
  show (Read.bits c bs).lay (layReads reads r) = st
  rw [hr]
  cases c <;> simp only [Read.lay, Streams.setBits] <;> rw [← h] <;> rfl

/-- Bytes in front of what a byte source has left, then the reads from there. -/
theorem Begins.bytes {c : ByteCur} {bs rest : List Byte} (h : st.bytes c = bs ++ rest)
    (ht : Begins (st.setBytes rest c) reads) : Begins st (.bytes c bs :: reads) := by
  obtain ⟨r, hr⟩ := ht
  refine ⟨r, ?_⟩
  show (Read.bytes c bs).lay (layReads reads r) = st
  rw [hr]
  cases c <;> simp only [Read.lay, Streams.setBytes] <;> rw [← h] <;> rfl

/-- One field of a byte source. -/
theorem Begins.field {c : ByteCur} {bs rest : List Byte} (h : st.bytes c = bs ++ rest) :
    Begins st [.bytes c bs] := .bytes h .nil

end
/-- A first part of which it is known when it answers. -/
theorem Yields.read {ε α β : Type} {a : Except ε α} {f : α → Except ε β} {P : β → Prop} {Q : α → Prop}
    (ha : ∀ {x}, a = .ok x ↔ Q x) (hf : ∀ x, Q x → Yields (f x) P) : Yields (a >>= f) P :=
  .bind ⟨fun _ => ha.mp⟩ hf

/-- A first part that is one bit. -/
theorem Yields.readBit {β : Type} {bits : List Bool} {f : Nat × List Bool → Except Reject β} {P : β → Prop}
    (hf : ∀ (b : Bool) (rest : List Bool), bits = b :: rest → Yields (f (b.toNat, rest)) P) :
    Yields (takeBits 1 bits >>= f) P := by
  refine .read takeBit_eq_ok fun ⟨v, rest⟩ ⟨b, hv, h⟩ => ?_
  obtain rfl : v = b.toNat := hv
  exact hf b rest h

section

variable (st : Streams)

variable {st} in
theorem withMask_begins {mode rest : List Bool} {mk : Half → Instr} (h : st.bit1 = mode ++ rest)
    (hmk : ∀ mask, encode (mk mask) = modeMask mode mask) :
    Yields (withMask st mk) fun i => Begins st (encode i) :=
  .read takeU16_eq_ok fun ⟨mask, _⟩ hmask => .ok (hmk mask ▸ .bits h (.field hmask))

theorem decodeTile2_begins : Yields (decodeTile2 st) fun i => Begins st (encode i) := by
  refine .read takeBits_eq_ok fun ⟨m, _⟩ ⟨hlt, h⟩ => ?_
  dsimp only at hlt h
  interval_cases m
  · exact withMask_begins h fun _ => rfl
  · exact withMask_begins h fun _ => rfl
  · exact withMask_begins h fun _ => rfl
  · exact .ok (.bits h .nil)

theorem decodeSub2_begins : Yields (decodeSub2 st) fun i => Begins st (encode i) := by
  refine .read takeBits_eq_ok fun ⟨m, _⟩ ⟨hlt, h⟩ => ?_
  dsimp only at hlt h
  interval_cases m
  · exact withMask_begins h fun _ => rfl
  · exact withMask_begins h fun _ => rfl
  · exact withMask_begins h fun _ => rfl
  · exact .ok (.bits h .nil)

theorem decodeSub3_begins : Yields (decodeSub3 st) fun i => Begins st (encode i) := by
  refine .read takeBits_eq_ok fun ⟨m, _⟩ ⟨hlt, h⟩ => ?_
  dsimp only at hlt h
  interval_cases m
  · exact withMask_begins h fun _ => rfl
  · exact withMask_begins h fun _ => rfl
  · exact withMask_begins h fun _ => rfl
  · exact .ok (.bits h .nil)
  · exact withMask_begins h fun _ => rfl
  · exact .ok (.bits h .nil)
  · exact withMask_begins h fun _ => rfl
  · exact .ok (.bits h .nil)

/-- A residual of class `c`, once its index fits the `c + 1` bits of the class (30_encoding.md R76). -/
theorem residual_begins {c i : Nat} {r2 r1 : List Bool} (h2 : st.bit2 = msbBits 3 c ++ r2)
    (hlt : i < 2 ^ (c + 1)) (h1 : st.bit1 = msbBits (c + 1) i ++ r1) :
    Begins st (residualReads c (BitVec.ofNat (c + 1) i).toNat) := by
  rw [BitVec.toNat_ofNat, Nat.mod_eq_of_lt hlt]
  exact .bits h2 (.bits h1 .nil)

theorem decodePixel_begins (maskBit : Bool) :
    Yields (decodePixel maskBit st) fun i => Begins st (encode i) := by
  cases maskBit with
  | true => exact .ok .nil
  | false =>
    refine .read takeBits_eq_ok fun ⟨c, _⟩ ⟨hc, h2⟩ => ?_
    dsimp only at hc h2 ⊢
    refine .ite ?_ fun hne => ?_
    · rintro rfl
      exact .read takeU16_eq_ok fun ⟨_, _⟩ h => .ok (.bits h2 (.field h))
    · refine .read takeBits_eq_ok fun ⟨i, _⟩ ⟨hi, h1⟩ => ?_
      have hb := residual_begins st h2 hi h1
      dsimp only at hb
      have hle : c ≤ 6 := by omega
      interval_cases c <;> exact .ok hb

theorem decodeMb16_begins : Yields (decodeMb16 st) fun i => Begins st (encode i) := by
  refine .readBit fun b1 r1 h1 => ?_
  cases b1 with
  | false => exact .ok (.bits h1 .nil)
  | true =>
    refine .ite nofun fun _ => .readBit fun b2 r2 h2 => ?_
    have h12 : st.bit1 = [true, b2] ++ r2 := by rw [h1, h2]; rfl
    cases b2 with
    | true => exact .ok (.bits h12 .nil)
    | false =>
      refine .ite nofun fun _ => .readBit fun b3 r3 h3 => ?_
      have h123 : st.bit1 = [true, false, b3] ++ r3 := by rw [h12, h3]; rfl
      cases b3 with
      | true => exact .ok (.bits h123 .nil)
      | false =>
        refine .ite nofun fun _ => .read takeBits_eq_ok fun ⟨a, _⟩ ⟨ha, h4⟩ =>
          .read takeBits_eq_ok fun ⟨b, _⟩ ⟨hb, h5⟩ => .ok ?_
        rw [encode, BitVec.toNat_ofNat, BitVec.toNat_ofNat, Nat.mod_eq_of_lt ha, Nat.mod_eq_of_lt hb]
        exact .bits h123 (.bits h4 (.bits h5 .nil))

theorem decodeTable_begins (dynamic : Bool) : Yields (decodeTable dynamic st) fun i => Begins st (encode i) := by
  cases dynamic with
  | false => exact .ok .nil
  | true =>
    exact .read takeBytes_eq_ok fun ⟨_, _⟩ ⟨_, hs⟩ => .read takeU16s_eq_ok fun ⟨_, _⟩ ⟨_, hm⟩ =>
      .ok (.bytes hs (.field hm))

theorem decodeD2Value_begins (code : PrefixCode ValueKind) :
    Yields (decodeD2Value code st) fun i => Begins st (encode i) := by
  refine .read takeCode_eq_ok fun ⟨bits, kind, _⟩ ⟨_, h⟩ => ?_
  cases kind with
  | backref => exact .ok (.bits h .nil)
  | xor => exact .read takeU8_eq_ok fun ⟨_, _⟩ hk => .ok (.bits h (.field hk))
  | lit => exact .read takeU16_eq_ok fun ⟨_, _⟩ hv => .ok (.bits h (.field hv))

theorem decodeD2Dist_begins (ifClear ifSet : DistOp) :
    Yields (decodeD2Dist ifClear ifSet st) fun i => Begins st (encode i) := by
  refine .readBit fun flag _ h => ?_
  have hflag : (flag.toNat == 1) = flag := by cases flag <;> rfl
  dsimp only
  rw [hflag]
  split
  · exact .ok (.bits h .nil)
  · exact .read takeU8_eq_ok fun ⟨_, _⟩ hd => .ok (.bits h (.field hd))
  · exact .read takeU16_eq_ok fun ⟨_, _⟩ hd => .ok (.bits h (.field hd))

theorem decodeD2Body_begins (kind : StripKind) (maskInBits : Bool) :
    Yields (decodeD2Body kind maskInBits st) fun i => Begins st (encode i) := by
  cases kind with
  | verb => exact .read takeBytes_eq_ok fun ⟨_, _⟩ ⟨_, h⟩ => .ok (.field h)
  | back => exact .ok .nil
  | strip2 =>
    cases maskInBits with
    | true =>
      refine .read takeBits_eq_ok fun ⟨m, _⟩ ⟨hm, h⟩ => .ok ?_
      rw [encode, BitVec.toNat_ofNat, Nat.mod_eq_of_lt hm]
      exact .bits h .nil
    | false => exact .read takeU8_eq_ok fun ⟨_, _⟩ h => .ok (.field h)

theorem decodeAlphaModern_begins :
    Yields (decodeHeader.decodeAlphaModern st.header) fun i => Begins st (encode i) :=
  .read takeU16_eq_ok fun ⟨_, _⟩ h1 => .read takeU8_eq_ok fun ⟨_, _⟩ h2 => .read takeU8_eq_ok fun ⟨_, rest⟩ h3 =>
    .ok (.field (rest := rest) (h1.trans (by rw [h2, h3]; rfl)))

theorem decodeHeader_begins (k : HdrStep) (legacy ninePatch : Bool) :
    Yields (decodeHeader k legacy ninePatch st.header) fun i => Begins st (encode i) := by
  cases k with
  | magic =>
    refine .read takeU8_eq_ok fun ⟨b0, _⟩ h0 => .read takeU8_eq_ok fun ⟨b1, rest⟩ h1 => .ite ?_ fun _ => .error
    rintro ⟨rfl, rfl⟩
    exact .ok (.field (rest := rest) (h0.trans (by rw [h1]; rfl)))
  | version => exact .read takeU8_eq_ok fun ⟨_, _⟩ h => .ok (.field h)
  | rawType => exact .read takeU8_eq_ok fun ⟨_, _⟩ h => .ok (.field h)
  | flagsAB | flagsCD =>
    exact .read takeU8_eq_ok fun ⟨_, _⟩ h0 => .read takeU8_eq_ok fun ⟨_, rest⟩ h1 =>
      .ok (.field (rest := rest) (h0.trans (by rw [h1]; rfl)))
  | dims =>
    exact .read takeU16_eq_ok fun ⟨_, _⟩ h0 => .read takeU16_eq_ok fun ⟨_, rest⟩ h1 =>
      .ok (.field (rest := rest) (h0.trans (by rw [h1]; rfl)))
  | alpha =>
    cases legacy with
    | true => exact .read takeU32_eq_ok fun ⟨_, _⟩ h => .ok (.field h)
    | false => exact decodeAlphaModern_begins st
  | scale => exact decodeAlphaModern_begins st
  | anim =>
    exact .read takeU16_eq_ok fun ⟨_, _⟩ h0 => .read takeU16_eq_ok fun ⟨_, _⟩ h1 => .read takeU16_eq_ok fun ⟨_, _⟩ h2 =>
      .read takeU8_eq_ok fun ⟨_, _⟩ h3 => .read takeU8_eq_ok fun ⟨_, rest⟩ h4 =>
        .ok (.field (rest := rest) (h0.trans (by rw [h1, h2, h3, h4]; rfl)))
  | index =>
    cases ninePatch with
    | true =>
      exact .read takeU32_eq_ok fun ⟨_, _⟩ h0 => .read takeU32_eq_ok fun ⟨_, rest⟩ h1 =>
        .ok (.field (rest := rest) (h0.trans (by rw [h1]; rfl)))
    | false => exact .read takeU32_eq_ok fun ⟨_, _⟩ h => .ok (.field h)
  | len | alphaPresent | first | size | xval | dataEnd | qpGate => exact .ok .nil

theorem decodeDispatch_begins (extra animated first modeOk : Bool) (depth : Half) :
    Yields (decodeDispatch extra animated first modeOk depth) fun i => Begins st (encode i) :=
  .ite (fun _ => .ok .nil) fun _ => .ite (fun _ => .ite (fun _ => .ok .nil) fun _ => .ok .nil) fun _ =>
    .ite (fun _ => .ok .nil) fun _ => .ite (fun _ => .ok .nil) fun _ => .ite (fun _ => .ok .nil) fun _ => .error

/-- The streams begin with the reads of whatever instruction the decoder answers (30_encoding.md R88). -/
theorem decode_begins (f : Format) : Yields (decode f st) fun i => Begins st (encode i) := by
  cases f with
  | hdr k legacy ninePatch => exact decodeHeader_begins st k legacy ninePatch
  | dispatch extra animated first modeOk depth => exact decodeDispatch_begins st extra animated first modeOk depth
  | table dynamic => exact decodeTable_begins st dynamic
  | tile2 => exact decodeTile2_begins st
  | pixel maskBit => exact decodePixel_begins st maskBit
  | mb16 => exact decodeMb16_begins st
  | mbEdge | mvCopy =>
    refine .readBit fun b _ h => ?_
    cases b <;> exact .ok (.bits h .nil)
  | gate => exact .ok .nil
  | sub3 => exact decodeSub3_begins st
  | sub2 => exact decodeSub2_begins st
  | litCell count => exact .read takeU16s_eq_ok fun ⟨_, _⟩ ⟨_, h⟩ => .ok (.field h)
  | value => exact .read takeValue_eq_ok fun ⟨_, _⟩ h => .ok (.field h)
  | w2Sym idx =>
    exact .ite (fun _ => .read takeU32_eq_ok fun ⟨_, _⟩ h => .ok (.field h)) fun _ =>
      .read takeValue_eq_ok fun ⟨_, _⟩ h => .ok (.field h)
  | d2Strip1 => exact .read takeU32_eq_ok fun ⟨_, _⟩ h => .ok (.field h)
  | d2Value code => exact decodeD2Value_begins st code
  | d2Dist ifClear ifSet => exact decodeD2Dist_begins st ifClear ifSet
  | d2StripSel code =>
    refine .read takeCode_eq_ok fun ⟨bits, kind, _⟩ ⟨_, h⟩ => ?_
    cases kind with
    | some k => exact .ok (.bits h .nil)
    | none => exact .error
  | d2Body kind maskInBits => exact decodeD2Body_begins st kind maskInBits
  | d2Tail count => exact .read takeBytes_eq_ok fun ⟨_, _⟩ ⟨_, h⟩ => .ok (.field h)
  | command =>
    simp only [decode]
    split
    · exact .ok ⟨st, congrArg _ (Eq.symm ‹_›)⟩
    · exact .ok ⟨st, congrArg _ (Eq.symm ‹_›)⟩
    · exact .error

end

/-- Settles O2: the instruction is one of the format (`decode_admits`), and every read of the decoder takes exactly what
the encoder gives for its value, so that the streams begin with the instruction's reads (`decode_begins`). -/
theorem decodedStreams : Obligations.DecodedStreams := by
  unfold Obligations.DecodedStreams
  intro f st i h
  exact ⟨(decode_admits st f).apply i h, (decode_begins st f).apply i h⟩

end Sys2Proof

namespace Sys2Proof.Machine

open Sys2Proof

/-! ## The step of a decoded symbol -/

section

variable {s : State} {f : Format} {st : Streams} {i : Instr}

/-- What is fetched is what the decoder reads from the streams. -/
theorem State.runNext_decoded (hf : s.format = .ok f) (hst : s.streams f = .ok st) (hd : decode f st = .ok i) :
    s.runNext = exec i s.issue := by
  simp [State.runNext, State.fetch, hf, hst, hd]

theorem State.runNext_rejected {r : Reject} (hf : s.format = .ok f) (hst : s.streams f = .ok st)
    (hd : decode f st = .error r) : s.runNext = .next (s.fail r.err) := by
  simp [State.runNext, State.fetch, hf, hst, hd]

/-- Outside the two silent steps that no format shuts out, and with a command waiting when idle, a step fetches. -/
theorem step_eq_runNext (ho : s.seq.stage ≠ .orchestrate) (hc : s.seq.stage ≠ .complete)
    (hi : s.seq.stage = .idle → s.queue ≠ []) (hf : s.format = .ok f) : step s = s.runNext := by
  unfold step
  split
  · exact absurd ‹_› ho
  · simp [State.format, ‹s.seq.stage = .partialFrame›] at hf
  · exact absurd ‹_› hc
  · exact if_neg (hi ‹_›)
  · rfl

/-- A control point that has the format of a symbol, not of a host command, is the one of a running DECODE. -/
theorem State.stage_of_format (hf : s.format = .ok f) (hne : f ≠ .command) :
    s.seq.stage ≠ .orchestrate ∧ s.seq.stage ≠ .complete ∧ s.seq.stage ≠ .idle := by
  refine ⟨fun h => ?_, fun h => ?_, fun h => hne ?_⟩ <;> simp [State.format, h] at hf
  exact hf.symm

/-- The step of a symbol. -/
theorem step_of_decoded (hf : s.format = .ok f) (hst : s.streams f = .ok st) (hd : decode f st = .ok i)
    (hne : f ≠ .command := by nofun) : step s = exec i s := by
  obtain ⟨ho, hc, hi⟩ := State.stage_of_format hf hne
  rw [step_eq_runNext ho hc (absurd · hi) hf, State.runNext_decoded hf hst hd, State.issue_busy hi]

theorem step_of_rejected {r : Reject} (hf : s.format = .ok f) (hst : s.streams f = .ok st)
    (hd : decode f st = .error r) (hne : f ≠ .command := by nofun) : Raises (step s) s r.err := by
  obtain ⟨ho, hc, hi⟩ := State.stage_of_format hf hne
  rw [step_eq_runNext ho hc (absurd · hi) hf, State.runNext_rejected hf hst hd]
  exact ⟨s.fail r.err, rfl, rfl, rfl, rfl, rfl, rfl, rfl, rfl⟩

end

/-- Settles O4: outside the silent steps a step fetches (`step_eq_runNext`), and what it fetches is what the decoder
answers (`State.runNext_decoded`). -/
theorem stepRunsDecoded : Obligations.StepRunsDecoded := by
  unfold Obligations.StepRunsDecoded
  intro s f st i ho hc hi hf hst hd
  exact ⟨(step_eq_runNext ho hc hi hf).trans (State.runNext_decoded hf hst hd), rfl⟩

end Sys2Proof.Machine

namespace Sys2Proof.Machine

open Sys2Proof

/-! ## What the cursors deliver

The bits and bytes under a cursor stand in front of what it has left, and each read of the decoder takes them. -/

section

variable (m : Memory)

theorem BitCursor.bits_add (c : BitCursor) (a b : Nat) : c.bits m (a + b) = c.bits m a ++ (c.after a).bits m b := by
  simp [BitCursor.bits, BitCursor.bitAt, BitCursor.after, List.range_add, Nat.add_assoc]

theorem ByteCursor.bytes_add (c : ByteCursor) (a b : Nat) :
    c.bytes m (a + b) = c.bytes m a ++ (c.after a).bytes m b := by
  simp [ByteCursor.bytes, ByteCursor.after, List.range_add, Nat.add_assoc]

@[simp] theorem BitCursor.length_bits (c : BitCursor) (n : Nat) : (c.bits m n).length = n := by simp [BitCursor.bits]

@[simp] theorem ByteCursor.length_bytes (c : ByteCursor) (n : Nat) : (c.bytes m n).length = n := by
  simp [ByteCursor.bytes]

theorem takeBit_cons (b : Bool) (rest : List Bool) : takeBits 1 (b :: rest) = .ok (b.toNat, rest) := by
  simpa [valueOfBits, shiftIn] using takeBits_append [b] rest

/-- The value that a `BitRead` answers (41_readers.md R130). -/
theorem BitCursor.value_of_read {c c' : BitCursor} {n v : Nat} (h : c.read m n = .ok (v, c')) :
    valueOfBits (c.bits m n) = v := by
  unfold BitCursor.read at h
  split at h <;> cases h
  rfl

/-- A `BitRead` of a cursor and a read of the decoder give the same value (41_readers.md R130). -/
theorem takeBits_of_read {c c' : BitCursor} {n v : Nat} (h : c.read m n = .ok (v, c')) (rest : List Bool) :
    takeBits n (c.bits m n ++ rest) = .ok (v, rest) := by
  rw [← BitCursor.value_of_read m h]
  simpa using takeBits_append (c.bits m n) rest

theorem takeU8_bytes (c : ByteCursor) (rest : List Byte) :
    takeU8 (c.bytes m 1 ++ rest) = .ok (Store.get m c.pos, rest) := rfl

theorem takeU16_bytes (c : ByteCursor) (rest : List Byte) :
    takeU16 (c.bytes m 2 ++ rest) = .ok (Memory.u16 m c.pos, rest) := rfl

theorem takeU32_bytes (c : ByteCursor) (rest : List Byte) :
    takeU32 (c.bytes m 4 ++ rest) = .ok (Memory.u32 m c.pos, rest) := rfl

theorem takeBytes_bytes (c : ByteCursor) (n : Nat) (rest : List Byte) :
    takeBytes n (c.bytes m n ++ rest) = .ok (c.bytes m n, rest) :=
  takeBytes_eq_ok.mpr ⟨c.length_bytes m n, rfl⟩

theorem takeU16s_bytes (c : ByteCursor) (n : Nat) (rest : List Byte) :
    takeU16s n (c.bytes m (2 * n) ++ rest) = .ok ((List.range n).map fun j => Memory.u16 m (c.pos + 2 * j), rest) := by
  induction n generalizing c with
  | zero => rfl
  | succ n ih =>
    rw [show 2 * (n + 1) = 2 + 2 * n by omega, ByteCursor.bytes_add, List.append_assoc, takeU16s, takeU16_bytes,
      Act.ok_bind]
    simp [ih, ByteCursor.after, List.range_succ_eq_map, Nat.mul_add, Nat.add_assoc, Nat.add_comm 2]

end

section

variable {s : State} {id : BitCur} {k n : Nat}

/-- What may be read beyond a number of bits stands after them. -/
theorem State.peekBits_eq_append (h : s.bitsReady id k = true) (hk : k ≤ n) :
    ∃ rest, s.peekBits id n = .ok (s.bitsUnder id k ++ rest) := by
  simp only [State.bitsReady, Bool.and_eq_true, decide_eq_true_eq] at h
  obtain ⟨hlive, havail⟩ := h
  have hready : s.bitsReady id 0 = true := by simp [State.bitsReady, hlive]
  obtain ⟨j, hj⟩ := Nat.exists_eq_add_of_le (Nat.le_min.mpr ⟨hk, havail⟩)
  rw [State.peekBits_ok n hready, hj]
  exact ⟨_, congrArg Except.ok (BitCursor.bits_add _ _ k j)⟩

theorem State.peekBits_exact (h : s.bitsReady id n = true) : s.peekBits id n = .ok (s.bitsUnder id n) := by
  simp only [State.bitsReady, Bool.and_eq_true, decide_eq_true_eq] at h
  obtain ⟨hlive, havail⟩ := h
  rw [State.peekBits_ok n (by simp [State.bitsReady, hlive]), Nat.min_eq_left havail]

theorem State.peekBits_code {code : List Bool} (h : s.codeUnder id code = true) (hk : code.length ≤ n) :
    ∃ rest, s.peekBits id n = .ok (code ++ rest) := by
  obtain ⟨hready, hcode⟩ := State.codeUnder_iff.mp h
  obtain ⟨rest, hrest⟩ := State.peekBits_eq_append hready hk
  exact ⟨rest, by rw [hrest, hcode]⟩

/-- A byte cursor that is ready, by the place where its register group keeps it. -/
theorem State.liveByte_of_ready {id : ByteCur} {r : Reg} {c : ByteCursor} (hid : s.byteCur id = s.rd r c)
    (h : s.bytesReady id k = true) : s.byteCur id = .ok c ∧ s.holds c.mem c.stop = true ∧ k ≤ c.avail := by
  obtain ⟨c', hc, hready⟩ := State.bytesReady_iff.mp h
  obtain ⟨-, rfl⟩ := State.rd_eq_ok.mp (hid ▸ hc)
  exact ⟨hc, hready⟩

theorem State.peekBytes_eq_append {id : ByteCur} {r : Reg} {c : ByteCursor} (hid : s.byteCur id = s.rd r c)
    (h : s.bytesReady id k = true) (hk : k ≤ n) :
    ∃ rest, s.peekBytes id n = .ok (c.bytes (s.mem c.mem) k ++ rest) := by
  obtain ⟨hc, hholds, havail⟩ := State.liveByte_of_ready hid h
  obtain ⟨j, hj⟩ := Nat.exists_eq_add_of_le (Nat.le_min.mpr ⟨hk, havail⟩)
  rw [State.peekBytes_ok n hc hholds, hj, ByteCursor.bytes_add]
  exact ⟨_, rfl⟩

/-- The bytes of a continuation value under a cursor (30_encoding.md R83). -/
theorem State.bytes_of_valueUnder {c : ByteCursor} {v : Nat} (h : s.valueUnder c v = true) :
    c.bytes (s.mem c.mem) (v / 255 + 1) = valueBytes v := by
  simp only [State.valueUnder, Bool.and_eq_true, List.all_eq_true, beq_iff_eq] at h
  obtain ⟨hff, hlast⟩ := h
  have hall : c.bytes (s.mem c.mem) (v / 255) = List.replicate (v / 255) 0xFF :=
    List.eq_replicate_iff.mpr ⟨c.length_bytes _ _, by
      intro b hb
      obtain ⟨j, hj, rfl⟩ := List.mem_map.mp hb
      exact hff j hj⟩
  rw [ByteCursor.bytes_add, hall, valueBytes, ← hlast]
  rfl

theorem State.peekValue {id : ByteCur} {r : Reg} {c : ByteCursor} {v : Nat} (hid : s.byteCur id = s.rd r c)
    (h : s.bytesReady id (v / 255 + 1) = true) (hv : s.valueUnder c v = true) :
    ∃ left rest, s.bytesLeft id = .ok left ∧ s.peekBytes id left = .ok (valueBytes v ++ rest) := by
  obtain ⟨hc, hholds, havail⟩ := State.liveByte_of_ready hid h
  obtain ⟨rest, hrest⟩ := State.peekBytes_eq_append hid h havail
  exact ⟨c.avail, rest, State.bytesLeft_ok hc hholds, by rw [hrest, State.bytes_of_valueUnder hv]⟩

theorem takeValue_append (v : Nat) (rest : List Byte) : takeValue (valueBytes v ++ rest) = .ok (v, rest) :=
  takeValue_eq_ok.mpr rfl

/-- A code is no longer than the longest of its tree. -/
theorem length_le_codeDepth {α : Type} [DecidableEq α] {tree : PrefixCode α} {code : List Bool} {a : α}
    (h : tree.spells code a = true) : code.length ≤ codeDepth tree := by
  induction tree generalizing code with
  | leaf b =>
    cases code with
    | nil => exact Nat.zero_le _
    | cons x xs => simp [PrefixCode.spells] at h
  | node z o hz ho =>
    cases code with
    | nil => exact Nat.zero_le _
    | cons x xs =>
      rw [codeDepth, List.length_cons]
      cases x
      · have := hz h
        omega
      · have := ho h
        omega

end

/-! ## The symbols of an A9LL frame -/

/-- The `TILE2` symbol of a mode (30_encoding.md R75). -/
def tile2Symbol (mode : Nat) (mask : Half) : Instr :=
  match mode with
  | 0 => .tile2Dir0 mask
  | 1 => .tile2Dir1 mask
  | 2 => .tile2Dir2 mask
  | _ => .tile2Edge

/-- The `SUB2` symbol of a mode (30_encoding.md R81). -/
def sub2Symbol (mode : Nat) (mask : Half) : Instr :=
  match mode with
  | 0 => .s2Dir0 mask
  | 1 => .s2Dir1 mask
  | 2 => .s2Dir2 mask
  | _ => .s2Edge

/-- The `SUB3` symbol of a mode (30_encoding.md R80). -/
def sub3Symbol (mode : Nat) (mask : Half) : Instr :=
  match mode with
  | 0 => .s3Dir0 mask
  | 1 => .s3Dir1 mask
  | 2 => .s3Dir2 mask
  | 3 => .s3Edge
  | 4 => .s3ResRef mask
  | 5 => .s3CopyRef
  | 6 => .s3ResMv mask
  | _ => .s3CopyMv

/-- The residual of a class and an index (30_encoding.md R76). -/
def residualSymbol (c i : Nat) : Instr :=
  match c with
  | 0 => .pixRes0 (BitVec.ofNat 1 i)
  | 1 => .pixRes1 (BitVec.ofNat 2 i)
  | 2 => .pixRes2 (BitVec.ofNat 3 i)
  | 3 => .pixRes3 (BitVec.ofNat 4 i)
  | 4 => .pixRes4 (BitVec.ofNat 5 i)
  | 5 => .pixRes5 (BitVec.ofNat 6 i)
  | _ => .pixRes6 (BitVec.ofNat 7 i)

section

variable {st : Streams} {m : Nat} {mask : Half} {r : List Bool} {r' : List Byte}

theorem withMask_ok (mk : Half → Instr) (h : takeU16 st.maskc = .ok (mask, r')) : withMask st mk = .ok (mk mask) := by
  simp [withMask, h]

/-- A mask is read unless the mode is `EDGE`. -/
theorem decodeTile2_ok (hm : takeBits 2 st.bit1 = .ok (m, r)) (h : m ≠ 3 → takeU16 st.maskc = .ok (mask, r')) :
    decodeTile2 st = .ok (tile2Symbol m mask) := by
  obtain ⟨hlt, -⟩ := takeBits_eq_ok.mp hm
  dsimp only at hlt
  simp only [decodeTile2, hm, Act.ok_bind]
  interval_cases m
  · exact withMask_ok _ (h (by decide))
  · exact withMask_ok _ (h (by decide))
  · exact withMask_ok _ (h (by decide))
  · rfl

theorem decodeSub2_ok (hm : takeBits 2 st.bit1 = .ok (m, r)) (h : m ≠ 3 → takeU16 st.maskc = .ok (mask, r')) :
    decodeSub2 st = .ok (sub2Symbol m mask) := by
  obtain ⟨hlt, -⟩ := takeBits_eq_ok.mp hm
  dsimp only at hlt
  simp only [decodeSub2, hm, Act.ok_bind]
  interval_cases m
  · exact withMask_ok _ (h (by decide))
  · exact withMask_ok _ (h (by decide))
  · exact withMask_ok _ (h (by decide))
  · rfl

/-- A mask is read unless the mode is `EDGE` or a copy. -/
theorem decodeSub3_ok (hm : takeBits 3 st.bit1 = .ok (m, r))
    (h : ¬(m = 3 ∨ m = 5 ∨ m = 7) → takeU16 st.maskc = .ok (mask, r')) :
    decodeSub3 st = .ok (sub3Symbol m mask) := by
  obtain ⟨hlt, -⟩ := takeBits_eq_ok.mp hm
  dsimp only at hlt
  simp only [decodeSub3, hm, Act.ok_bind]
  interval_cases m
  · exact withMask_ok _ (h (by decide))
  · exact withMask_ok _ (h (by decide))
  · exact withMask_ok _ (h (by decide))
  · rfl
  · exact withMask_ok _ (h (by decide))
  · rfl
  · exact withMask_ok _ (h (by decide))
  · rfl

theorem decodePixel_literal {lit : Half} (hm : takeBits 3 st.bit2 = .ok (7, r))
    (h : takeU16 st.litc = .ok (lit, r')) : decodePixel false st = .ok (.pixLit lit) := by
  simp [decodePixel, hm, h]

theorem decodePixel_residual {i : Nat} {r1 : List Bool} (hle : m ≤ 6) (hm : takeBits 3 st.bit2 = .ok (m, r))
    (hi : takeBits (m + 1) st.bit1 = .ok (i, r1)) : decodePixel false st = .ok (residualSymbol m i) := by
  have hne : m ≠ 7 := by omega
  simp only [decodePixel, hm, hi, hne, Act.ok_bind, Bool.false_eq_true, if_false]
  interval_cases m <;> rfl

end

section

variable {s : State} {f : Format} {i : Instr} {m n k : Nat} {code : List Bool}

/-- The mask that `MASKC` delivers next. -/
def State.nextMask (s : State) : Half := s.halfUnder (s.a9.get s.a9map.maskc) 0

/-- A symbol that is a code of a bit cursor. -/
theorem step_of_code (hf : s.format = .ok f) (h : s.codeUnder .bit1 code = true) (hn : code.length ≤ n)
    (hst : ∀ bits, s.peekBits .bit1 n = .ok bits → s.streams f = .ok { bit1 := bits })
    (hd : ∀ rest, decode f { bit1 := code ++ rest } = .ok i) (hne : f ≠ .command := by nofun) : step s = exec i s := by
  obtain ⟨rest, hrest⟩ := State.peekBits_code h hn
  exact step_of_decoded hf (hst _ hrest) (hd rest) hne

theorem State.modeStreams_ready (hb : s.bitsReady .bit1 n = true) (hm : s.bytesReady .maskc k = true) (hk : k ≤ 2) :
    ∃ rest, s.modeStreams n = .ok {
      bit1 := s.bitsUnder .bit1 n
      maskc := (s.a9.get s.a9map.maskc).bytes (s.mem (s.a9.get s.a9map.maskc).mem) k ++ rest } := by
  obtain ⟨rest, hrest⟩ := State.peekBytes_eq_append (n := 2) rfl hm hk
  exact ⟨rest, by simp [State.modeStreams, State.peekBits_exact hb, hrest]⟩

/-- The value of the bits that may be read next. -/
theorem takeBits_bitsUnder (id : BitCur) (hv : valueOfBits (s.bitsUnder id n) = m) :
    takeBits n (s.bitsUnder id n) = .ok (m, []) := by
  have h := takeBits_append (s.bitsUnder id n) []
  rwa [State.bitsUnder, BitCursor.length_bits, List.append_nil, ← State.bitsUnder, hv] at h

theorem step_tile2 (hf : s.format = .ok .tile2) (hb : s.bitsReady .bit1 2 = true)
    (hm : s.bytesReady .maskc (if m = 3 then 0 else 2) = true) (hv : valueOfBits (s.bitsUnder .bit1 2) = m) :
    step s = exec (tile2Symbol m s.nextMask) s := by
  obtain ⟨rest, hst⟩ := State.modeStreams_ready hb hm (by split <;> decide)
  exact step_of_decoded hf hst
    (decodeTile2_ok (takeBits_bitsUnder _ hv) (r' := rest) fun hne => by rw [if_neg hne]; rfl)

theorem step_sub2 (hf : s.format = .ok .sub2) (hb : s.bitsReady .bit1 2 = true)
    (hm : s.bytesReady .maskc (if m = 3 then 0 else 2) = true) (hv : valueOfBits (s.bitsUnder .bit1 2) = m) :
    step s = exec (sub2Symbol m s.nextMask) s := by
  obtain ⟨rest, hst⟩ := State.modeStreams_ready hb hm (by split <;> decide)
  exact step_of_decoded hf hst
    (decodeSub2_ok (takeBits_bitsUnder _ hv) (r' := rest) fun hne => by rw [if_neg hne]; rfl)

theorem step_sub3 (hf : s.format = .ok .sub3) (hb : s.bitsReady .bit1 3 = true)
    (hm : s.bytesReady .maskc (if m = 3 ∨ m = 5 ∨ m = 7 then 0 else 2) = true)
    (hv : valueOfBits (s.bitsUnder .bit1 3) = m) : step s = exec (sub3Symbol m s.nextMask) s := by
  obtain ⟨rest, hst⟩ := State.modeStreams_ready hb hm (by split <;> decide)
  exact step_of_decoded hf hst
    (decodeSub3_ok (takeBits_bitsUnder _ hv) (r' := rest) fun hne => by rw [if_neg hne]; rfl)

theorem State.format_pixel {pr : Predictor} {t : TileKind} {set : Bool} (h : s.pixelStands pr t set = true) :
    s.format = .ok (.pixel set) := by
  simp only [State.pixelStands, Bool.and_eq_true, decide_eq_true_eq, State.has_cons] at h
  obtain ⟨⟨⟨⟨hs, -, hmask, -⟩, -⟩, -⟩, hset⟩ := h
  simp [State.format, hs, State.maskBit_ok hmask hset]

/-- Class 7 is the class whose three bits are set. -/
theorem State.class_eq_iff (hv : valueOfBits (s.bitsUnder .bit2 3) = m) :
    s.bitsUnder .bit2 3 = [true, true, true] ↔ m = 7 := by
  constructor
  · intro h
    rw [← hv, h]
    rfl
  · rintro rfl
    have h := msbBits_valueOfBits (s.bitsUnder .bit2 3)
    rw [hv, State.bitsUnder, BitCursor.length_bits] at h
    exact h.symm

theorem step_pixLit (hf : s.format = .ok (.pixel false)) (hb : s.bitsReady .bit2 3 = true)
    (hv : valueOfBits (s.bitsUnder .bit2 3) = 7) (hl : s.bytesReady .litc 2 = true) :
    step s = exec (.pixLit (s.halfUnder (s.a9.get s.a9map.litc) 0)) s := by
  obtain ⟨rest, hrest⟩ := State.peekBytes_eq_append (n := 2) rfl hl (Nat.le_refl 2)
  have hst : s.streams (.pixel false) = .ok {
      bit2 := s.bitsUnder .bit2 3
      litc := (s.a9.get s.a9map.litc).bytes (s.mem (s.a9.get s.a9map.litc).mem) 2 ++ rest } := by
    simp [State.streams, State.pixelStreams, State.peekBits_exact hb, (State.class_eq_iff hv).mpr rfl, hrest]
  exact step_of_decoded hf hst (decodePixel_literal (takeBits_bitsUnder _ hv) (takeU16_bytes _ _ rest))

theorem step_residual {idx : Nat} {c : BitCursor} (hf : s.format = .ok (.pixel false))
    (hb : s.bitsReady .bit2 3 = true) (hv : valueOfBits (s.bitsUnder .bit2 3) = m) (hle : m ≤ 6)
    (hi : s.bitsReady .bit1 (m + 1) = true) (hr : s.bit1.read (s.mem s.bit1.mem) (m + 1) = .ok (idx, c)) :
    step s = exec (residualSymbol m idx) s := by
  obtain ⟨rest, hrest⟩ := State.peekBits_eq_append (n := 7) hi (by omega)
  have hcls : s.bitsUnder .bit2 3 ≠ [true, true, true] := fun h => by
    have := (State.class_eq_iff hv).mp h
    omega
  have hst : s.streams (.pixel false) = .ok {
      bit2 := s.bitsUnder .bit2 3
      bit1 := s.bitsUnder .bit1 (m + 1) ++ rest } := by
    simp [State.streams, State.pixelStreams, State.peekBits_exact hb, hcls, hrest]
  exact step_of_decoded hf hst (decodePixel_residual hle (takeBits_bitsUnder _ hv) (takeBits_of_read _ hr rest))

theorem State.format_mb16 (hs : s.seq.stage = .mb) (hd : s.has [.dims] = true) (hfull : s.mbFull = true) :
    s.format = .ok .mb16 := by
  simp [State.format, hs, State.mbFormat_ok (State.has_cons.mp hd).1, hfull]

theorem State.format_mbEdge (hs : s.seq.stage = .mb) (hd : s.has [.dims] = true) (hfull : s.mbFull = false) :
    s.format = .ok .mbEdge := by
  simp [State.format, hs, State.mbFormat_ok (State.has_cons.mp hd).1, hfull]

/-- A macroblock code without a vector (30_encoding.md R78). -/
theorem step_mb16 (hf : s.format = .ok .mb16) (h : s.codeUnder .bit1 code = true) (hn : code.length ≤ 18)
    (hd : ∀ rest, decodeMb16 { bit1 := code ++ rest } = .ok i) : step s = exec i s :=
  step_of_code hf h hn (fun bits hbits => by simp [State.streams, hbits]) hd

theorem step_mbEdge (hf : s.format = .ok .mbEdge) {skip : Bool} (h : s.codeUnder .bit1 [skip] = true) :
    step s = exec (if skip then .embSkip1 else .embCells) s :=
  step_of_code hf h (Nat.le_refl 1) (fun bits hbits => by simp [State.streams, hbits]) fun rest => by
    cases skip <;> simp [decode, takeBit_cons]

theorem step_mvCopy (hf : s.format = .ok .mvCopy) {copy : Bool} (h : s.codeUnder .bit1 [copy] = true) :
    step s = exec (if copy then .mbMcCopy else .mbMcSub) s :=
  step_of_code hf h (Nat.le_refl 1) (fun bits hbits => by simp [State.streams, hbits]) fun rest => by
    cases copy <;> simp [decode, takeBit_cons]

/-- The code of a vector, then its two fields (30_encoding.md R79). -/
theorem step_mbMv {a b : Nat} {c c' : BitCursor} (hf : s.format = .ok .mb16) (hb : s.bitsReady .bit1 18 = true)
    (hcode : s.bit1.bits (s.mem s.bit1.mem) 3 = [true, false, false])
    (ha : (s.bit1.after 3).read (s.mem s.bit1.mem) 8 = .ok (a, c))
    (hb' : (s.bit1.after 11).read (s.mem s.bit1.mem) 7 = .ok (b, c')) :
    step s = exec (.mbMv (BitVec.ofNat 8 a) (BitVec.ofNat 7 b)) s := by
  have hbits : s.bitsUnder .bit1 18 = true :: false :: false ::
      ((s.bit1.after 3).bits (s.mem s.bit1.mem) 8 ++ ((s.bit1.after 11).bits (s.mem s.bit1.mem) 7 ++ [])) := by
    rw [State.bitsUnder, State.bitCur, BitCursor.bits_add _ _ 3 15, BitCursor.bits_add _ _ 8 7, hcode,
      BitCursor.after_after, List.append_nil]
    rfl
  have hst : s.streams .mb16 = .ok { bit1 := s.bitsUnder .bit1 18 } := by
    simp [State.streams, State.peekBits_exact hb]
  refine step_of_decoded hf hst ?_
  simp only [decode, decodeMb16, hbits, takeBit_cons, takeBits_of_read _ ha, takeBits_of_read _ hb', Act.ok_bind]
  rfl

theorem State.format_sub2 (h : s.sub2Next = true) : s.format = .ok .sub2 := by
  simp only [State.sub2Next, Bool.or_eq_true, Bool.and_eq_true, beq_iff_eq] at h
  obtain hs | ⟨⟨hs, hd⟩, hfit⟩ := h
  · simp [State.format, hs]
  · simp [State.format, hs, State.cellFormat_ok (State.has_cons.mp hd).1, hfit]

/-- A `SUB2` symbol by its two mode bits. -/
theorem step_sub2_code (h : s.sub2Next = true) {b1 b0 : Bool} (hc : s.codeUnder .bit1 [b1, b0] = true)
    (hm : s.bytesReady .maskc (if valueOfBits [b1, b0] = 3 then 0 else 2) = true) :
    step s = exec (sub2Symbol (valueOfBits [b1, b0]) s.nextMask) s := by
  obtain ⟨hb, hbits⟩ := State.codeUnder_iff.mp hc
  exact step_sub2 (State.format_sub2 h) hb hm (congrArg valueOfBits hbits)

theorem step_dtConst (hs : s.seq.stage = .table) (hh : s.has [.flagsAB] = true) (hd : s.hdr.dynamicTable = false) :
    step s = exec .dtConst s :=
  step_of_decoded (f := .table false) (st := {}) (by simp [State.format, hs, State.needRegs_ok hh, hd]) rfl rfl

theorem step_dtab (hs : s.seq.stage = .table) (hh : s.has [.flagsAB] = true) (hd : s.hdr.dynamicTable = true)
    (hb : s.bytesReady .tabc 1536 = true) :
    step s = exec (.dtab ((List.range 512).map fun j => s.byteUnder (s.a9.get s.a9map.tabc) j)
      ((List.range 512).map fun j => s.halfUnder (s.a9.get s.a9map.tabc) (512 + 2 * j))) s := by
  have hf : s.format = .ok (.table true) := by simp [State.format, hs, State.needRegs_ok hh, hd]
  obtain ⟨rest, hrest⟩ := State.peekBytes_eq_append (n := 1536) rfl hb (Nat.le_refl _)
  rw [ByteCursor.bytes_add _ _ 512 1024, List.append_assoc] at hrest
  refine step_of_decoded hf (by simp only [State.streams, hrest, Act.ok_bind, if_true]; rfl) ?_
  simp only [decode, decodeTable, takeBytes_bytes, takeU16s_bytes _ _ 512, Act.ok_bind, if_true]
  simp [ByteCursor.bytes, ByteCursor.after, State.byteUnder, State.halfUnder, Nat.add_assoc]

theorem step_gate {g : SubKind} (hs : s.seq.stage = .gate g) : step s = exec .gate s :=
  step_of_decoded (f := .gate) (st := {}) (by simp [State.format, hs]) rfl rfl

theorem step_litCell {count : Nat} (hf : s.format = .ok (.litCell count))
    (hb : s.bytesReady .edgelit (2 * count) = true) :
    step s = exec (.embLitCell ((List.range count).map fun j => s.halfUnder (s.a9.get s.a9map.edgelit) (2 * j))) s := by
  obtain ⟨rest, hrest⟩ := State.peekBytes_eq_append (n := 2 * count) rfl hb (Nat.le_refl _)
  refine step_of_decoded hf (by simp only [State.streams, hrest, Act.ok_bind]; rfl) ?_
  simp only [decode, takeU16s_bytes, Act.ok_bind]
  rfl

end
end Sys2Proof.Machine

namespace Sys2Proof.Machine

open Sys2Proof

/-! ## The symbols of a W2 frame -/

section

variable {s : State} {v : Nat}

theorem step_value (hs : s.seq.stage = .w2Index) (hb : s.bytesReady .idx (v / 255 + 1) = true)
    (hv : s.valueUnder s.idx v = true) : step s = exec (.value v) s := by
  obtain ⟨left, rest, hleft, hrest⟩ := State.peekValue rfl hb hv
  refine step_of_decoded (f := .value) (by simp [State.format, hs])
    (by simp only [State.streams, hleft, hrest, Act.ok_bind]; rfl) ?_
  simp [decode, takeValue_append]

/-- The cursor that P13 reads run lengths from. -/
def State.runCur (s : State) : ByteCursor :=
  match s.cfg.w2Layout.runFrom with
  | .idx => s.idx
  | .lit => s.lit

theorem State.byteCur_run (s : State) : s.byteCur .run = s.rd .rsW2D1 s.runCur := by
  simp only [State.byteCur, State.runCur]
  cases s.cfg.w2Layout.runFrom <;> rfl

theorem step_w2Run {idx : Nat} (hidx : 1 ≤ idx) (hs : s.seq.stage = .w2Sym idx)
    (hb : s.bytesReady .run (v / 255 + 1) = true) (hv : s.valueUnder s.runCur v = true) :
    step s = exec (.w2Run idx v) s := by
  obtain ⟨left, rest, hleft, hrest⟩ := State.peekValue s.byteCur_run hb hv
  have hne : idx ≠ 0 := by omega
  refine step_of_decoded (f := .w2Sym idx) (by simp [State.format, hs])
    (by simp only [State.streams, hne, hleft, hrest, Act.ok_bind, if_false]; rfl) ?_
  simp [decode, hne, takeValue_append]

theorem step_w2Lit (hs : s.seq.stage = .w2Sym 0) (hb : s.bytesReady .lit 4 = true) :
    step s = exec (.w2Lit (s.wordUnder s.lit)) s := by
  obtain ⟨rest, hrest⟩ := State.peekBytes_eq_append (n := 4) rfl hb (Nat.le_refl 4)
  refine step_of_decoded (f := .w2Sym 0) (by simp [State.format, hs])
    (by simp only [State.streams, hrest, Act.ok_bind, if_true]; rfl) ?_
  simp only [decode, takeU32_bytes, Act.ok_bind, if_true]
  rfl

end

section

variable {s : State} {d : D2Coding} {strip : Strip} {j : Nat} {code : List Bool} {flag : Bool}

theorem State.byteCur_d2 (hd : s.cfg.d2 = some d) :
    s.byteCur .d2l = s.rd .rsW2D2 (s.d2.get d.litCur) ∧ s.byteCur .d2dist = s.rd .rsW2D2 (s.d2.get d.distCur) ∧
    s.byteCur .d2key = s.rd .rsW2D2 (s.d2.get d.keyCur) ∧ s.byteCur .d2mask = s.rd .rsW2D2 (s.d2.get d.maskCur) := by
  simp [State.byteCur, State.coding_eq_ok.mpr hd]

theorem step_d2Strip1 (hd : s.cfg.d2 = some d) (hs : s.seq.stage = .d2Strip1) (hb : s.bytesReady .d2l 4 = true) :
    step s = exec (.d2Strip1 (s.wordUnder (s.d2.get d.litCur))) s := by
  obtain ⟨hcur, -⟩ := State.byteCur_d2 hd
  obtain ⟨rest, hrest⟩ := State.peekBytes_eq_append (n := 4) hcur hb (Nat.le_refl 4)
  refine step_of_decoded (f := .d2Strip1) (by simp [State.format, hs])
    (by simp only [State.streams, hrest, Act.ok_bind]; rfl) ?_
  simp only [decode, takeU32_bytes, Act.ok_bind]
  rfl

/-! ### The distance -/

/-- The distance symbol, by the streams of what its flag bit selects. -/
theorem step_d2Dist {update : DistUpdate} {bytes : List Byte} (hd : s.cfg.d2 = some d)
    (hs : s.seq.stage = .d2Dist strip j) (hc : s.codeUnder .d2b [flag] = true)
    (hst : s.distBytes d.distIfClear d.distIfSet [flag] = .ok bytes)
    (hdec : decodeD2Dist d.distIfClear d.distIfSet { d2b := [flag], d2dist := bytes } = .ok (.d2Dist flag update)) :
    step s = exec (.d2Dist flag update) s := by
  obtain ⟨hb, hbits⟩ := State.codeUnder_iff.mp hc
  have hpeek : s.peekBits .d2b 1 = .ok [flag] := by rw [← hbits]; exact State.peekBits_exact hb
  exact step_of_decoded (f := .d2Dist d.distIfClear d.distIfSet)
    (by simp [State.format, hs, State.coding_eq_ok.mpr hd]) (by simp only [State.streams, hpeek, hst, Act.ok_bind]) hdec

theorem decodeD2Dist_flag (ifClear ifSet : DistOp) (bytes : List Byte) :
    decodeD2Dist ifClear ifSet { d2b := [flag], d2dist := bytes } =
      match if flag then ifSet else ifClear with
      | .keep => .ok (.d2Dist flag .keep)
      | .byte => takeU8 bytes >>= fun x => .ok (.d2Dist flag (.byte x.1))
      | .half => takeU16 bytes >>= fun x => .ok (.d2Dist flag (.half x.1)) := by
  cases flag <;> simp only [decodeD2Dist, takeBit_cons] <;> rfl

theorem step_d2Dist_keep (hd : s.cfg.d2 = some d) (hs : s.seq.stage = .d2Dist strip j)
    (hc : s.codeUnder .d2b [flag] = true) (hop : (if flag then d.distIfSet else d.distIfClear) = .keep) :
    step s = exec (.d2Dist flag .keep) s :=
  step_d2Dist hd hs hc (bytes := []) (by simp only [State.distBytes, hop]) (by rw [decodeD2Dist_flag, hop])

theorem step_d2Dist_byte (hd : s.cfg.d2 = some d) (hs : s.seq.stage = .d2Dist strip j)
    (hc : s.codeUnder .d2b [flag] = true) (hop : (if flag then d.distIfSet else d.distIfClear) = .byte)
    (hb : s.bytesReady .d2dist 1 = true) :
    step s = exec (.d2Dist flag (.byte (s.byteUnder (s.d2.get d.distCur) 0))) s := by
  obtain ⟨-, hcur, -⟩ := State.byteCur_d2 hd
  obtain ⟨rest, hrest⟩ := State.peekBytes_eq_append (n := 2) hcur hb (by decide)
  exact step_d2Dist hd hs hc (by simp only [State.distBytes, hop]; exact hrest)
    (by rw [decodeD2Dist_flag, hop]; simp only [takeU8_bytes, Act.ok_bind]; rfl)

theorem step_d2Dist_half (hd : s.cfg.d2 = some d) (hs : s.seq.stage = .d2Dist strip j)
    (hc : s.codeUnder .d2b [flag] = true) (hop : (if flag then d.distIfSet else d.distIfClear) = .half)
    (hb : s.bytesReady .d2dist 2 = true) :
    step s = exec (.d2Dist flag (.half (s.halfUnder (s.d2.get d.distCur) 0))) s := by
  obtain ⟨-, hcur, -⟩ := State.byteCur_d2 hd
  obtain ⟨rest, hrest⟩ := State.peekBytes_eq_append (n := 2) hcur hb (by decide)
  exact step_d2Dist hd hs hc (by simp only [State.distBytes, hop]; exact hrest)
    (by rw [decodeD2Dist_flag, hop]; simp only [takeU16_bytes, Act.ok_bind]; rfl)

/-! ### The values -/

theorem State.format_d2Value (hd : s.cfg.d2 = some d) (hs : s.seq.stage = .d2Value strip j) :
    s.format = .ok (.d2Value (kindCode d strip j)) := by
  simp [State.format, hs, State.coding_eq_ok.mpr hd]

theorem step_d2Value_backref (hd : s.cfg.d2 = some d) (hs : s.seq.stage = .d2Value strip j)
    (hsp : (kindCode d strip j).spells code .backref = true) (hc : s.codeUnder .d2b code = true) :
    step s = exec (.d2Value code .backref) s := by
  obtain ⟨rest, hrest⟩ := State.peekBits_code hc (length_le_codeDepth hsp)
  have htake := takeCode_of_spells rest hsp
  refine step_of_decoded (State.format_d2Value hd hs)
    (by simp only [State.streams, State.valueStreams, hrest, htake, Act.ok_bind]; rfl) ?_
  simp [decode, decodeD2Value, htake]

theorem step_d2Value_xor (hd : s.cfg.d2 = some d) (hs : s.seq.stage = .d2Value strip j)
    (hsp : (kindCode d strip j).spells code .xor = true) (hc : s.codeUnder .d2b code = true)
    (hb : s.bytesReady .d2key 1 = true) :
    step s = exec (.d2Value code (.xor (s.byteUnder (s.d2.get d.keyCur) 0))) s := by
  obtain ⟨-, -, hcur, -⟩ := State.byteCur_d2 hd
  obtain ⟨rest, hrest⟩ := State.peekBits_code hc (length_le_codeDepth hsp)
  obtain ⟨more, hmore⟩ := State.peekBytes_eq_append (n := 1) hcur hb (Nat.le_refl 1)
  have htake := takeCode_of_spells rest hsp
  refine step_of_decoded (State.format_d2Value hd hs)
    (by simp only [State.streams, State.valueStreams, hrest, htake, hmore, Act.ok_bind]; rfl) ?_
  simp only [decode, decodeD2Value, htake, takeU8_bytes, Act.ok_bind]
  rfl

theorem step_d2Value_lit (hd : s.cfg.d2 = some d) (hs : s.seq.stage = .d2Value strip j)
    (hsp : (kindCode d strip j).spells code .lit = true) (hc : s.codeUnder .d2b code = true)
    (hb : s.bytesReady .d2l 2 = true) :
    step s = exec (.d2Value code (.lit (s.halfUnder (s.d2.get d.litCur) 0))) s := by
  obtain ⟨hcur, -⟩ := State.byteCur_d2 hd
  obtain ⟨rest, hrest⟩ := State.peekBits_code hc (length_le_codeDepth hsp)
  obtain ⟨more, hmore⟩ := State.peekBytes_eq_append (n := 2) hcur hb (Nat.le_refl 2)
  have htake := takeCode_of_spells rest hsp
  refine step_of_decoded (State.format_d2Value hd hs)
    (by simp only [State.streams, State.valueStreams, hrest, htake, hmore, Act.ok_bind]; rfl) ?_
  simp only [decode, decodeD2Value, htake, takeU16_bytes, Act.ok_bind]
  rfl

/-! ### The later strips and the tail -/

/-- The streams of a strip's selector, and what the decoder reads from them. -/
theorem State.selector_streams {kind : Option StripKind} (hsp : d.selector.spells code kind = true)
    (hc : s.codeUnder .d2b code = true) :
    ∃ st, s.streams (.d2StripSel d.selector) = .ok st ∧ decode (.d2StripSel d.selector) st =
      match kind with
      | some k => .ok (.d2StripSel code k)
      | none => .error .badSelector := by
  obtain ⟨rest, hrest⟩ := State.peekBits_code hc (length_le_codeDepth hsp)
  refine ⟨{ d2b := code ++ rest }, by simp [State.streams, hrest], ?_⟩
  simp only [decode, takeCode_of_spells rest hsp, Act.ok_bind]
  cases kind <;> rfl

theorem State.format_d2Sel (hd : s.cfg.d2 = some d) (hs : s.seq.stage = .d2Sel) :
    s.format = .ok (.d2StripSel d.selector) := by
  simp [State.format, hs, State.coding_eq_ok.mpr hd]

theorem State.format_d2Body {kind : StripKind} (hd : s.cfg.d2 = some d) (hs : s.seq.stage = .d2Body kind) :
    s.format = .ok (.d2Body kind d.maskInBits) := by
  simp [State.format, hs, State.coding_eq_ok.mpr hd]

theorem step_d2Verb (hd : s.cfg.d2 = some d) (hs : s.seq.stage = .d2Body .verb) (hb : s.bytesReady .d2l 16 = true) :
    step s = exec (.d2Verb ((List.range 16).map fun j => s.byteUnder (s.d2.get d.litCur) j)) s := by
  obtain ⟨hcur, -⟩ := State.byteCur_d2 hd
  obtain ⟨rest, hrest⟩ := State.peekBytes_eq_append (n := 16) hcur hb (Nat.le_refl 16)
  refine step_of_decoded (State.format_d2Body hd hs) (by simp only [State.streams, hrest, Act.ok_bind]; rfl) ?_
  simp only [decode, decodeD2Body, takeBytes_bytes, Act.ok_bind]
  rfl

theorem step_d2Back (hd : s.cfg.d2 = some d) (hs : s.seq.stage = .d2Body .back) : step s = exec .d2Back s :=
  step_of_decoded (st := {}) (State.format_d2Body hd hs) rfl rfl

theorem step_d2Strip2_bits {m : Nat} {c : BitCursor} (hd : s.cfg.d2 = some d) (hs : s.seq.stage = .d2Body .strip2)
    (hmask : d.maskInBits = true) (hb : s.bitsReady .d2b 8 = true)
    (hr : s.d2b.read (s.mem s.d2b.mem) 8 = .ok (m, c)) : step s = exec (.d2Strip2 true (BitVec.ofNat 8 m)) s := by
  have htake : takeBits 8 (s.bitsUnder .d2b 8) = .ok (m, []) := takeBits_bitsUnder _ (BitCursor.value_of_read _ hr)
  have hst : s.streams (.d2Body .strip2 true) = .ok { d2b := s.bitsUnder .d2b 8 } := by
    simp [State.streams, State.peekBits_exact hb]
  refine step_of_decoded (hmask ▸ State.format_d2Body hd hs) hst ?_
  simp [decode, decodeD2Body, htake]

theorem step_d2Strip2_byte (hd : s.cfg.d2 = some d) (hs : s.seq.stage = .d2Body .strip2)
    (hmask : d.maskInBits = false) (hb : s.bytesReady .d2mask 1 = true) :
    step s = exec (.d2Strip2 false (s.byteUnder (s.d2.get d.maskCur) 0)) s := by
  obtain ⟨-, -, -, hcur⟩ := State.byteCur_d2 hd
  obtain ⟨rest, hrest⟩ := State.peekBytes_eq_append (n := 1) hcur hb (Nat.le_refl 1)
  refine step_of_decoded (f := .d2Body .strip2 false) (hmask ▸ State.format_d2Body hd hs)
    (by simp only [State.streams, hrest, Act.ok_bind]; rfl) ?_
  simp only [decode, decodeD2Body, takeU8_bytes, Act.ok_bind]
  rfl

theorem step_d2Tail (hd : s.cfg.d2 = some d) (hs : s.seq.stage = .d2Tail) (hh : s.has [.size, .ipos] = true)
    (hb : s.bytesReady .d2l (s.size - s.ipos) = true) :
    step s = exec (.d2Tail ((List.range (s.size - s.ipos)).map fun j => s.byteUnder (s.d2.get d.litCur) j)) s := by
  obtain ⟨hsize, hipos⟩ := State.has_cons.mp hh
  have hf : s.format = .ok (.d2Tail (s.size - s.ipos)) := by
    simp [State.format, hs, State.rd_ok hsize, State.rd_ok (State.has_cons.mp hipos).1]
  obtain ⟨hcur, -⟩ := State.byteCur_d2 hd
  obtain ⟨rest, hrest⟩ := State.peekBytes_eq_append hcur hb (Nat.le_refl _)
  refine step_of_decoded hf (by simp only [State.streams, hrest, Act.ok_bind]; rfl) ?_
  simp only [decode, takeBytes_bytes, Act.ok_bind]
  rfl

end

/-! ## Every symbol -/

section

variable (s : State)

theorem State.blockOperands : BlockOperands s := by
  refine ⟨fun hs hh => ⟨step_dtConst hs hh, step_dtab hs hh⟩, fun hs hd hfull => ?_, fun hs hd hfull => ?_,
    fun hs => ?_, fun _ hs => step_gate hs, fun hnext => ?_, fun count hs hd _ _ hfit hcount hb => ?_⟩
  · have hf := State.format_mb16 hs hd hfull
    refine ⟨fun h => step_mb16 hf h (by decide) fun rest => ?_, fun h => step_mb16 hf h (by decide) fun rest => ?_,
      fun h => step_mb16 hf h (by decide) fun rest => ?_⟩ <;> simp [decodeMb16, takeBit_cons]
  · have hf := State.format_mbEdge hs hd hfull
    exact ⟨step_mbEdge hf, step_mbEdge hf⟩
  · have hf : s.format = .ok .mvCopy := by simp [State.format, hs]
    exact ⟨step_mvCopy hf, step_mvCopy hf⟩
  · exact ⟨fun hm => ⟨fun hc => step_sub2_code hnext hc hm, fun hc => step_sub2_code hnext hc hm,
      fun hc => step_sub2_code hnext hc hm⟩, fun hm hc => step_sub2_code hnext hc hm⟩
  · have hf : s.format = .ok (.litCell count) := by
      simp only [State.format, hs, State.cellFormat_ok (State.has_cons.mp hd).1, hfit, hcount]
      rfl
    exact step_litCell hf hb

theorem State.valueOperands : ValueOperands s :=
  fun _ => ⟨step_value, fun _ hidx hs hb hv => step_w2Run hidx hs hb hv⟩

variable {s} in
theorem State.depthTwoOperands {d : D2Coding} (hd : s.cfg.d2 = some d) : DepthTwoOperands s d := by
  refine ⟨step_d2Strip1 hd, fun strip j flag hs hc => ?_, fun strip j code kind hs hsp hc => ?_,
    fun code kind hs hsp hc => ?_, step_d2Verb hd, step_d2Back hd, fun hs => ⟨fun _ _ => step_d2Strip2_bits hd hs,
    step_d2Strip2_byte hd hs⟩, step_d2Tail hd⟩
  · split
    · exact step_d2Dist_keep hd hs hc ‹_›
    · exact step_d2Dist_byte hd hs hc ‹_›
    · exact step_d2Dist_half hd hs hc ‹_›
  · cases kind with
    | backref => exact step_d2Value_backref hd hs hsp hc
    | xor => exact step_d2Value_xor hd hs hsp hc
    | lit => exact step_d2Value_lit hd hs hsp hc
  · obtain ⟨st, hst, hdec⟩ := State.selector_streams hsp hc
    cases kind with
    | some k => exact step_of_decoded (State.format_d2Sel hd hs) hst hdec
    | none => exact step_of_rejected (State.format_d2Sel hd hs) hst hdec

end

/-- Settles O6: each symbol's streams begin with the bits and bytes under its cursors, and the decoder reads its operands
from there (`step_of_decoded` with the lemma of each symbol). -/
theorem symbolOperands : Obligations.SymbolOperands := by
  unfold Obligations.SymbolOperands
  refine ⟨fun s => ⟨s.blockOperands, s.valueOperands, fun d hd => State.depthTwoOperands hd⟩, fun s m mask c => ?_⟩
  have hmask (v : Half) (h : mask = v.toNat) : BitVec.ofNat 16 mask = v := by
    rw [h, BitVec.ofNat_toNat, BitVec.setWidth_eq]
  refine ⟨fun hs hb hm hr hk => ?_, fun hs hb hm hr hk => ?_, fun pr k h => ?_, fun pr k i c' h hb hr => ⟨?_, ?_⟩,
    fun a b c' c'' hs hd hfull hb hcode ha hb' => step_mbMv (State.format_mb16 hs hd hfull) hb hcode ha hb',
    step_w2Lit⟩
  · rw [hmask _ hk]
    exact step_tile2 (by simp [State.format, hs]) hb hm (BitCursor.value_of_read _ hr)
  · rw [hmask _ hk]
    exact step_sub3 (by simp [State.format, hs]) hb hm (BitCursor.value_of_read _ hr)
  · exact step_of_decoded (State.format_pixel h) rfl rfl
  · rintro rfl hl
    exact step_pixLit (State.format_pixel h) hb (BitCursor.value_of_read _ hr) hl
  · exact fun hle hi hri => step_residual (State.format_pixel h) hb (BitCursor.value_of_read _ hr) hle hi hri

end Sys2Proof.Machine

namespace Sys2Proof.Machine

open Sys2Proof

/-- Settles O5: a running DECODE has the format of a symbol (`State.format_yields`), so `step_of_rejected` applies. -/
theorem stepOfRejected : Obligations.StepOfRejected := by
  unfold Obligations.StepOfRejected
  intro s f st r _ _ hidle hf hst hd
  exact step_of_rejected hf hst hd ((State.format_yields hidle).apply f hf)

/-! ## The fields of a header step

A header step reads its fields at a fixed place of the packet (30_encoding.md R71); a field beyond the packet's end is
an overrun (40_header.md R113). -/

section

variable {α : Type} {n : Nat} {bytes : List Byte}

/-- What overruns on fewer than `n` bytes overruns on fewer than `n + 1` when a byte is taken first. -/
theorem takeU8_bind_short {f : Byte × List Byte → Except Reject α}
    (hf : ∀ v rest, rest.length < n → f (v, rest) = .error .overrun) (h : bytes.length < n + 1) :
    (takeU8 bytes >>= f) = .error .overrun := by
  cases bytes with
  | nil => rfl
  | cons b rest => exact hf b rest (Nat.lt_of_succ_lt_succ h)

theorem takeU16_bind_short {f : Half × List Byte → Except Reject α}
    (hf : ∀ v rest, rest.length < n → f (v, rest) = .error .overrun) (h : bytes.length < n + 2) :
    (takeU16 bytes >>= f) = .error .overrun := by
  rcases bytes with _ | ⟨b0, _ | ⟨b1, rest⟩⟩
  · rfl
  · rfl
  · exact hf (le16 b0 b1) rest (by simpa using h)

theorem takeU32_bind_short {f : Word × List Byte → Except Reject α}
    (hf : ∀ v rest, rest.length < n → f (v, rest) = .error .overrun) (h : bytes.length < n + 4) :
    (takeU32 bytes >>= f) = .error .overrun := by
  rcases bytes with _ | ⟨b0, _ | ⟨b1, _ | ⟨b2, _ | ⟨b3, rest⟩⟩⟩⟩
  · rfl
  · rfl
  · rfl
  · rfl
  · exact hf (le32 b0 b1 b2 b3) rest (by simpa using h)

theorem decodeHeader_alphaLegacy_short (ninePatch : Bool) (h : bytes.length < 4) :
    decodeHeader .alpha true ninePatch bytes = .error .overrun :=
  takeU32_bind_short (n := 0) (fun _ _ h => absurd h (Nat.not_lt_zero _)) h

theorem decodeHeader_alphaModern_short (ninePatch : Bool) (h : bytes.length < 4) :
    decodeHeader .alpha false ninePatch bytes = .error .overrun :=
  takeU16_bind_short (fun _ _ => takeU8_bind_short fun _ _ =>
    takeU8_bind_short (n := 0) fun _ _ h => absurd h (Nat.not_lt_zero _)) h

theorem decodeHeader_anim_short (legacy ninePatch : Bool) (h : bytes.length < 8) :
    decodeHeader .anim legacy ninePatch bytes = .error .overrun :=
  takeU16_bind_short (fun _ _ => takeU16_bind_short fun _ _ => takeU16_bind_short fun _ _ =>
    takeU8_bind_short fun _ _ => takeU8_bind_short (n := 0) fun _ _ h => absurd h (Nat.not_lt_zero _)) h

end

section

variable {s : State} {k : HdrStep} {i : Instr} {o n m : Nat}

theorem State.mem_of_has {rs : List Reg} (h : s.has rs = true) : ∀ r ∈ rs, r ∈ s.written := by
  simpa [State.has] using h

/-- The `n` bytes of the packet at `o`. -/
def State.packetBytes (s : State) (o n : Nat) : List Byte := (List.range n).map fun j => Store.get s.pkt (o + j)

theorem State.packetFrom_eq (s : State) (o m : Nat) : s.packetFrom o m = s.packetBytes o (min m (s.len - o)) := rfl

theorem State.length_packetBytes (s : State) (o n : Nat) : (s.packetBytes o n).length = n :=
  (List.length_map _).trans List.length_range

theorem State.packetBytes_add (s : State) (o a b : Nat) :
    s.packetBytes o (a + b) = s.packetBytes o a ++ (List.range b).map fun j => Store.get s.pkt (o + (a + j)) := by
  simp [State.packetBytes, List.range_add]

theorem State.packetFrom_eq_append (hn : n ≤ m) (hlen : o + n ≤ s.len) :
    ∃ rest, s.packetFrom o m = s.packetBytes o n ++ rest := by
  obtain ⟨j, hj⟩ := Nat.exists_eq_add_of_le (Nat.le_min.mpr ⟨hn, Nat.le_sub_of_add_le' hlen⟩)
  exact ⟨_, by rw [State.packetFrom_eq, hj, State.packetBytes_add]⟩

theorem State.format_hdr (hs : s.seq.stage = .hdr k) (hw : ∀ r ∈ hdrFormatNeeds k, r ∈ s.written) :
    s.format = .ok (.hdr k s.hdr.legacy s.hdr.ninePatch) := by
  simp [State.format, hs, State.needRegs_written hw]

/-- The step of a header row whose `n` bytes of fields lie inside the packet. -/
theorem step_hdr (hs : s.seq.stage = .hdr k) (hw : ∀ r ∈ hdrFormatNeeds k, r ∈ s.written) (hn : n ≤ 8)
    (hlen : s.hdrOffset k + n ≤ s.len)
    (hd : ∀ rest, decodeHeader k s.hdr.legacy s.hdr.ninePatch (s.packetBytes (s.hdrOffset k) n ++ rest) = .ok i) :
    step s = exec i s := by
  obtain ⟨rest, hrest⟩ := State.packetFrom_eq_append hn hlen
  exact step_of_decoded (State.format_hdr hs hw) rfl ((congrArg _ hrest).trans (hd rest)) nofun

/-- The step of a header row whose `n` bytes of fields do not lie inside the packet (40_header.md R113). -/
theorem step_hdr_short (hs : s.seq.stage = .hdr k) (hw : ∀ r ∈ hdrFormatNeeds k, r ∈ s.written) (h0 : 0 < n)
    (hlen : s.len < s.hdrOffset k + n)
    (hd : ∀ {bytes}, bytes.length < n → decodeHeader k s.hdr.legacy s.hdr.ninePatch bytes = .error .overrun) :
    Raises (step s) s .invalidData := by
  refine step_of_rejected (r := .overrun) (State.format_hdr hs hw) rfl (hd ?_) nofun
  rw [State.packetFrom_eq, State.length_packetBytes]
  omega

/-! ### The alpha field and the colour count, whose layout the header chooses -/

section

variable (hs : s.seq.stage = .hdr .alpha) (hv : .version ∈ s.written)

include hs hv

theorem step_alphaLegacy (hl : s.hdr.legacy = true) (hlen : 16 ≤ s.len) :
    step s = exec (.hdrAlphaLegacy (Memory.u32 s.pkt 12)) s := by
  refine step_hdr (n := 4) hs (by simpa [hdrFormatNeeds]) (by decide) hlen fun _ => ?_
  rw [hl]
  rfl

theorem step_alphaLegacy_short (hl : s.hdr.legacy = true) (hlen : s.len < 16) : Raises (step s) s .invalidData := by
  refine step_hdr_short (n := 4) hs (by simpa [hdrFormatNeeds]) (by decide) hlen fun hb => ?_
  rw [hl]
  exact decodeHeader_alphaLegacy_short _ hb

theorem step_alphaModern (hl : s.hdr.legacy = false) (hlen : 16 ≤ s.len) :
    step s = exec (.hdrAlphaModern (Memory.u16 s.pkt 12) (Store.get s.pkt 14) (Store.get s.pkt 15)) s := by
  refine step_hdr (n := 4) hs (by simpa [hdrFormatNeeds]) (by decide) hlen fun _ => ?_
  rw [hl]
  rfl

theorem step_alphaModern_short (hl : s.hdr.legacy = false) (hlen : s.len < 16) : Raises (step s) s .invalidData := by
  refine step_hdr_short (n := 4) hs (by simpa [hdrFormatNeeds]) (by decide) hlen fun hb => ?_
  rw [hl]
  exact decodeHeader_alphaModern_short _ hb

end

section

variable (hs : s.seq.stage = .hdr .index) (hw : s.has [.flagsCD, .headerSize] = true)

include hs hw

theorem step_index_plain (hn : s.hdr.ninePatch = false) (hlen : s.hdr.headerSize.toNat + 4 ≤ s.len) :
    step s = exec (.hdrIndex none (Memory.u32 s.pkt s.hdr.headerSize.toNat)) s := by
  refine step_hdr (n := 4) hs (State.mem_of_has hw) (by decide) hlen fun _ => ?_
  rw [hn]
  rfl

theorem step_index_ninePatch (hn : s.hdr.ninePatch = true) (hlen : s.hdr.headerSize.toNat + 8 ≤ s.len) :
    step s = exec (.hdrIndex (some (Memory.u32 s.pkt s.hdr.headerSize.toNat))
      (Memory.u32 s.pkt (s.hdr.headerSize.toNat + 4))) s := by
  refine step_hdr (n := 8) hs (State.mem_of_has hw) (by decide) hlen fun _ => ?_
  rw [hn]
  rfl

end

end

/-! ## What each header step answers (40_header.md R100-R117) -/

section

variable {s t : State} {k : HdrStep}

/-- A rule whose computation answers `t` goes on in `t`. -/
theorem finish_next {a : Act State} (h : a = .ok t) : finish s a = .next t := h ▸ rfl

theorem finish_raises {a : Act State} {e : Err} (h : a = .error (.raise e)) : Raises (finish s a) s e :=
  ⟨s.fail e, h ▸ rfl, rfl, rfl, rfl, rfl, rfl, rfl, rfl⟩

section

variable {α β : Type} {a : Act α} {b : Bool} {e : Err} {y : Act β}

/-- What a sequence answers is what its rest answers from the value of its first part. -/
theorem Act.run_eq {x : α} {f : α → Act β} (ha : a = .ok x) (hf : f x = y) : (a >>= f) = y := by
  rw [ha, Act.ok_bind, hf]

theorem Act.require_eq {f : Unit → Act β} (hb : b = true) (hf : f () = y) : (require b e >>= f) = y :=
  Act.run_eq (require_eq_ok.mpr hb) hf

theorem Act.expect_eq {f : Unit → Act β} (hb : b = true) (hf : f () = y) : (expect b >>= f) = y :=
  Act.run_eq (expect_eq_ok.mpr hb) hf

theorem Act.require_raises {f : Unit → Act β} (hb : b = false) : (require b e >>= f) = .error (.raise e) := by
  rw [hb, require_false, Act.error_bind]

end

theorem State.hdrDone_eq (h : ∀ r ∈ hdrNeeds k, r ∈ s.written) : s.hdrDone k = .ok (s.goto (hdrNext s.hdr k)) :=
  Act.run_eq (State.needRegs_written h) rfl

/-- A header step writes its fields and goes on to the step that the new header chooses (R118). -/
theorem State.setHdr_hdrDone_eq {r : Reg} {h : Header} (hk : ∀ q ∈ hdrNeeds k, q = r ∨ q ∈ s.written) :
    (s.setHdr r h).hdrDone k = .ok ((s.setHdr r h).goto (hdrNext h k)) :=
  State.hdrDone_eq fun q hq => State.mem_mark.mpr (hk q hq)

/-- Most steps need no register to know which step is next (R118). -/
theorem State.hdrDone_free (hk : hdrNeeds k = []) : s.hdrDone k = .ok (s.goto (hdrNext s.hdr k)) :=
  State.hdrDone_eq (by simp [hk])

theorem State.setHdr_hdrDone_free {r : Reg} {h : Header} (hk : hdrNeeds k = []) :
    (s.setHdr r h).hdrDone k = .ok ((s.setHdr r h).goto (hdrNext h k)) :=
  State.hdrDone_free hk

/-! ### Length, magic, version, raw type -/

theorem execHdrLen_next (hs : s.seq.stage = .hdr .len) (h : 12 ≤ s.len) :
    execHdrLen s = .next (s.goto (.hdr .magic)) :=
  finish_next (Act.run_eq (State.expectHdr_ok hs) (Act.require_eq (decide_eq_true h) (State.hdrDone_free rfl)))

theorem execHdrLen_short (hs : s.seq.stage = .hdr .len) (h : s.len < 12) : Raises (execHdrLen s) s .invalidData :=
  finish_raises (Act.run_eq (State.expectHdr_ok hs) (Act.require_raises (decide_eq_false (Nat.not_le.mpr h))))

theorem State.within_packet {n : Nat} (h : n ≤ s.len) : s.within .packet n = .ok () :=
  State.within_ok (Bool.and_eq_true_iff.mpr ⟨rfl, decide_eq_true h⟩)

theorem execHdrMagic_next (hs : s.seq.stage = .hdr .magic) (hlen : 2 ≤ s.len) (h0 : Store.get s.pkt 0 = 0x51)
    (h1 : Store.get s.pkt 1 = 0x4D) : execHdrMagic s = .next (s.goto (.hdr .version)) := by
  have hmagic : (Store.get s.pkt 0 == 0x51 && Store.get s.pkt 1 == 0x4D) = true := by simp [h0, h1]
  exact finish_next (Act.run_eq (State.expectHdr_ok hs) (Act.run_eq (State.within_packet hlen)
    (Act.require_eq hmagic (State.hdrDone_free rfl))))

theorem execHdrMagic_raises (hs : s.seq.stage = .hdr .magic) (hlen : 2 ≤ s.len)
    (h : Store.get s.pkt 0 ≠ 0x51 ∨ Store.get s.pkt 1 ≠ 0x4D) : Raises (execHdrMagic s) s .invalidData := by
  have hmagic : (Store.get s.pkt 0 == 0x51 && Store.get s.pkt 1 == 0x4D) = false := by
    rcases h with h | h
    · rw [beq_eq_false_iff_ne.mpr h, Bool.false_and]
    · rw [beq_eq_false_iff_ne.mpr h, Bool.and_false]
  exact finish_raises (Act.run_eq (State.expectHdr_ok hs) (Act.run_eq (State.within_packet hlen)
    (Act.require_raises hmagic)))

/-- The decoder rejects two bytes that are not the magic (40_header.md R101). -/
theorem step_badMagic (hs : s.seq.stage = .hdr .magic) (hlen : 2 ≤ s.len)
    (h : Store.get s.pkt 0 ≠ 0x51 ∨ Store.get s.pkt 1 ≠ 0x4D) : Raises (step s) s .invalidData := by
  obtain ⟨rest, hrest⟩ := State.packetFrom_eq_append (s := s) (o := 0) (n := 2) (m := 8) (by decide) hlen
  have hd : decodeHeader .magic s.hdr.legacy s.hdr.ninePatch (s.packetFrom 0 8) = .error .badMagic := by
    rw [hrest]
    exact if_neg (not_and_or.mpr h)
  exact step_of_rejected (State.format_hdr hs nofun) rfl hd nofun

theorem execHdrVersion_next (b : Byte) (hs : s.seq.stage = .hdr .version) :
    execHdrVersion b s =
      .next ((s.setHdr .version { s.hdr with version := b, legacy := decide (b ≤ 0x0B) }).goto (.hdr .rawType)) :=
  finish_next (Act.run_eq (State.expectHdr_ok hs) (State.setHdr_hdrDone_free rfl))

theorem execHdrRawType_next {b : Byte} (hs : s.seq.stage = .hdr .rawType) (hb : b = 0 ∨ b = s.cfg.rawType2) :
    execHdrRawType b s = .next ((s.setHdr .rawType { s.hdr with rawType := b }).goto (.hdr .flagsAB)) := by
  have hknown : (b == 0 || b == s.cfg.rawType2) = true := by
    rwa [Bool.or_eq_true, beq_iff_eq, beq_iff_eq]
  exact finish_next (Act.run_eq (State.expectHdr_ok hs) (Act.require_eq hknown (State.setHdr_hdrDone_free rfl)))

theorem execHdrRawType_raises {b : Byte} (hs : s.seq.stage = .hdr .rawType) (h0 : b ≠ 0) (h2 : b ≠ s.cfg.rawType2) :
    Raises (execHdrRawType b s) s .unsupported := by
  have hunknown : (b == 0 || b == s.cfg.rawType2) = false := by
    rw [beq_eq_false_iff_ne.mpr h0, beq_eq_false_iff_ne.mpr h2, Bool.false_or]
  exact finish_raises (Act.run_eq (State.expectHdr_ok hs) (Act.require_raises hunknown))

/-! ### Flags and dimensions -/

theorem execHdrFlagsAB_next (a b : Byte) (hs : s.seq.stage = .hdr .flagsAB) (hv : s.has [.version] = true) :
    execHdrFlagsAB a b s = .next ((s.setHdr .flagsAB (decodeAB s.cfg s.hdr a b)).goto (.hdr .dims)) :=
  finish_next (Act.run_eq (State.expectHdr_ok hs) (Act.run_eq (State.needRegs_ok hv) (State.setHdr_hdrDone_free rfl)))

theorem execHdrFlagsCD_next (c d : Byte) (hs : s.seq.stage = .hdr .flagsCD) (hv : s.has [.version] = true) :
    execHdrFlagsCD c d s = .next ((s.setHdr .flagsCD (decodeCD s.cfg s.hdr c d)).goto (.hdr .alphaPresent)) :=
  finish_next (Act.run_eq (State.expectHdr_ok hs) (Act.run_eq (State.needRegs_ok hv) (State.setHdr_hdrDone_free rfl)))

theorem execHdrDims_next {w h : Half} (hs : s.seq.stage = .hdr .dims) (hw : w ≠ 0) (hh : h ≠ 0) :
    execHdrDims w h s = .next ((s.setHdr .dims { s.hdr with w := w, h := h }).goto (.hdr .flagsCD)) :=
  finish_next (Act.run_eq (State.expectHdr_ok hs) (Act.require_eq
    (Bool.and_eq_true_iff.mpr ⟨bne_iff_ne.mpr hw, bne_iff_ne.mpr hh⟩) (State.setHdr_hdrDone_free rfl)))

theorem execHdrDims_raises {w h : Half} (hs : s.seq.stage = .hdr .dims) (h0 : w = 0 ∨ h = 0) :
    Raises (execHdrDims w h s) s .invalidData := by
  have hempty : (w != 0 && h != 0) = false := by
    rcases h0 with rfl | rfl
    · exact Bool.false_and _
    · exact Bool.and_false _
  exact finish_raises (Act.run_eq (State.expectHdr_ok hs) (Act.require_raises hempty))

/-! ### The alpha field and the animation fields -/

theorem execHdrAlphaPresent_next (hs : s.seq.stage = .hdr .alphaPresent) (hab : s.has [.flagsAB] = true) :
    execHdrAlphaPresent s =
      .next ((s.setHdr .alphaField { s.hdr with alphaField := s.hdr.transparency || s.hdr.animated }).goto
        (if s.hdr.transparency || s.hdr.animated then .hdr .alpha else .hdr .first)) := by
  have hnext : hdrNext { s.hdr with alphaField := s.hdr.transparency || s.hdr.animated } .alphaPresent =
      if s.hdr.transparency || s.hdr.animated then .hdr .alpha else .hdr .first := by
    -- Without an alpha field the frame is not animated, so the animation step is passed over too.
    cases h : s.hdr.transparency <;> cases h' : s.hdr.animated <;> simp [hdrNext, h']
  rw [← hnext]
  exact finish_next (Act.run_eq (State.expectHdr_ok hs) (Act.run_eq (State.needRegs_ok hab)
    (State.setHdr_hdrDone_eq (by simp [hdrNeeds, State.mem_of_has hab]))))

/-- A later frame of an animation, whose alpha offset is not scaled (40_header.md R109). -/
def Header.laterFrame (h : Header) : Bool := h.animated && !h.isFirst

theorem Header.laterFrame_eq (h : Header) : h.laterFrame = (h.animated && !h.isFirst) := rfl

section

variable (hs : s.seq.stage = .hdr .alpha) (hh : s.has [.alphaField, .version, .flagsAB] = true)
  (ha : s.hdr.alphaField = true)

include hs hh ha

theorem execHdrAlphaLegacy_next (raw : Word) (hl : s.hdr.legacy = true) (hlen : 16 ≤ s.len) :
    execHdrAlphaLegacy raw s =
      .next (((s.setHdr .alphaRaw { s.hdr with alphaRaw := raw }).setHdr .alphaBytes
        { s.hdr with alphaRaw := raw, alphaBytes := raw }).goto (hdrNext s.hdr .alpha)) := by
  have hw := State.mem_of_has hh
  refine finish_next (Act.run_eq (State.expectHdr_ok hs) (Act.run_eq (State.needRegs_written ?_)
    (Act.expect_eq (Bool.and_eq_true_iff.mpr ⟨ha, hl⟩) (Act.require_eq (decide_eq_true hlen)
    (State.setHdr_hdrDone_eq ?_)))))
  · simp [hw]
  · intro q hq
    obtain rfl : q = .flagsAB := by simpa [hdrNeeds] using hq
    exact .inr (State.mem_mark.mpr (.inr (hw _ (by simp))))

theorem execHdrAlphaLegacy_short (raw : Word) (hl : s.hdr.legacy = true) (hlen : s.len < 16) :
    Raises (execHdrAlphaLegacy raw s) s .invalidData := by
  refine finish_raises (Act.run_eq (State.expectHdr_ok hs) (Act.run_eq (State.needRegs_written ?_)
    (Act.expect_eq (Bool.and_eq_true_iff.mpr ⟨ha, hl⟩) (Act.require_raises (decide_eq_false (Nat.not_le.mpr hlen))))))
  simp [State.mem_of_has hh]

theorem execHdrAlphaModern_read_next (raw : Half) (mode pad : Byte) (hl : s.hdr.legacy = false) (hlen : 16 ≤ s.len) :
    execHdrAlphaModern raw mode pad s =
      .next ((s.setHdr .alphaRaw { s.hdr with alphaRaw := raw.setWidth 32, alphaMode := mode }).goto
        (hdrNext s.hdr .alpha)) := by
  have hw := State.mem_of_has hh
  unfold execHdrAlphaModern
  rw [hs]
  refine finish_next (Act.run_eq (State.needRegs_written ?_) (Act.expect_eq ?_ (Act.require_eq (decide_eq_true hlen)
    (State.setHdr_hdrDone_eq ?_))))
  · simp [hw]
  · simp [ha, hl]
  · simp [hdrNeeds, hw]

theorem execHdrAlphaModern_read_short (raw : Half) (mode pad : Byte) (hl : s.hdr.legacy = false)
    (hlen : s.len < 16) : Raises (execHdrAlphaModern raw mode pad s) s .invalidData := by
  unfold execHdrAlphaModern
  rw [hs]
  refine finish_raises (Act.run_eq (State.needRegs_written ?_) (Act.expect_eq ?_
    (Act.require_raises (decide_eq_false (Nat.not_le.mpr hlen)))))
  · simp [State.mem_of_has hh]
  · simp [ha, hl]

end

theorem execHdrAlphaModern_scale_next (raw : Half) (mode pad : Byte) (hs : s.seq.stage = .hdr .scale)
    (hh : s.has [.alphaRaw, .flagsAB] = true) (hfirst : s.hdr.animated = true → s.has [.isFirst] = true) :
    execHdrAlphaModern raw mode pad s =
      .next ((s.setHdr .alphaBytes { s.hdr with
        alphaBytes := if s.hdr.laterFrame then s.hdr.alphaRaw else 4 * s.hdr.alphaRaw }).goto (.hdr .size)) := by
  have scaled {later : Bool} (hlater : later = s.hdr.laterFrame) :
      (s.setHdr .alphaBytes { s.hdr with
        alphaBytes := if later then s.hdr.alphaRaw else 4 * s.hdr.alphaRaw }).hdrDone .scale =
      .ok ((s.setHdr .alphaBytes { s.hdr with
        alphaBytes := if s.hdr.laterFrame then s.hdr.alphaRaw else 4 * s.hdr.alphaRaw }).goto (.hdr .size)) := by
    rw [hlater]
    exact State.setHdr_hdrDone_free rfl
  unfold execHdrAlphaModern
  rw [hs]
  refine finish_next (Act.run_eq (State.needRegs_ok hh) (ite_eq_iff'.mpr ⟨fun ha => ?_, fun ha => ?_⟩))
  · exact Act.run_eq (State.rd_ok (State.has_cons.mp (hfirst ha)).1) (scaled (by simp [Header.laterFrame_eq, ha]))
  · exact Act.run_eq rfl (scaled (by simp [Header.laterFrame_eq, ha]))

/-- An offset below 2^16 is scaled without wrap. -/
theorem scaledAlpha_toNat (h : Header) (hraw : h.alphaRaw.toNat < 65536) :
    (if h.laterFrame then h.alphaRaw else 4 * h.alphaRaw).toNat =
      if h.animated = true ∧ h.isFirst = false then h.alphaRaw.toNat else 4 * h.alphaRaw.toNat := by
  have hlater : h.laterFrame = true ↔ h.animated = true ∧ h.isFirst = false := by simp [Header.laterFrame_eq]
  simp only [← hlater]
  split
  · rfl
  · bv_omega

section

variable (total current delay : Half) (noRepeat pad : Byte) (hs : s.seq.stage = .hdr .anim)
  (hh : s.has [.flagsAB] = true) (ha : s.hdr.animated = true)

include hs hh ha

theorem execHdrAnim_next (hlen : 24 ≤ s.len) :
    execHdrAnim total current delay noRepeat pad s =
      .next ((s.setHdr .anim { s.hdr with
        totalFrames := total, currentFrame := current, delayMs := delay, noRepeat := noRepeat }).goto (.hdr .first)) :=
  finish_next (Act.run_eq (State.expectHdr_ok hs) (Act.run_eq (State.needRegs_ok hh) (Act.expect_eq ha
    (Act.require_eq (decide_eq_true hlen) (State.setHdr_hdrDone_free rfl)))))

theorem execHdrAnim_short (hlen : s.len < 24) :
    Raises (execHdrAnim total current delay noRepeat pad s) s .invalidData :=
  finish_raises (Act.run_eq (State.expectHdr_ok hs) (Act.run_eq (State.needRegs_ok hh) (Act.expect_eq ha
    (Act.require_raises (decide_eq_false (Nat.not_le.mpr hlen))))))

end

/-! ### Index colour, header size, data end -/

/-- Where the colour count lies: after the nine-patch word, when there is one (40_header.md R111). -/
def State.countAt (s : State) : Nat := s.hdr.headerSize.toNat + if s.hdr.ninePatch then 4 else 0

theorem State.countAt_plain (hn : s.hdr.ninePatch = false) : s.countAt = s.hdr.headerSize.toNat :=
  congrArg (s.hdr.headerSize.toNat + ·) (if_neg (Bool.eq_false_iff.mp hn))

theorem State.countAt_ninePatch (hn : s.hdr.ninePatch = true) : s.countAt = s.hdr.headerSize.toNat + 4 :=
  congrArg (s.hdr.headerSize.toNat + ·) (if_pos hn)

section

variable {pad : Option Word} (hs : s.seq.stage = .hdr .index)
  (hh : s.has [.flagsCD, .headerSize, .alphaField] = true) (hi : s.hdr.indexColor = true)
  (hp : pad.isSome = s.hdr.ninePatch)

include hs hh hi hp

theorem execHdrIndex_next (count : Word) (hlen : s.countAt + 4 ≤ s.len) :
    execHdrIndex pad count s =
      .next ((s.setHdr .colorCount { s.hdr with
        colorCount := count
        dataStart := if s.cfg.indexColor.dataAfterWords then s.countAt + 4 else s.hdr.headerSize.toNat }).goto
        (hdrNext s.hdr .index)) := by
  have hw := State.mem_of_has hh
  refine finish_next (Act.run_eq (State.expectHdr_ok hs) (Act.run_eq (State.needRegs_written ?_) (Act.expect_eq ?_
    (Act.require_eq (decide_eq_true hlen) (State.setHdr_hdrDone_eq ?_)))))
  · simp [hw]
  · simp [hi, hp]
  · simp [hdrNeeds, hw]

theorem execHdrIndex_short (count : Word) (hlen : s.len < s.countAt + 4) :
    Raises (execHdrIndex pad count s) s .invalidData := by
  refine finish_raises (Act.run_eq (State.expectHdr_ok hs) (Act.run_eq (State.needRegs_written ?_) (Act.expect_eq ?_
    (Act.require_raises (decide_eq_false (Nat.not_le.mpr hlen))))))
  · simp [State.mem_of_has hh]
  · simp [hi, hp]

end

/-- `header_size` as `HDR.SIZE` computes it (40_header.md R112). -/
def Header.size (h : Header) : BitVec 5 := 12 + (if h.alphaField then 4 else 0) + (if h.animated then 8 else 0)

theorem execHdrSize_next (hs : s.seq.stage = .hdr .size) (hh : s.has [.alphaField, .flagsAB, .flagsCD] = true) :
    execHdrSize s =
      .next ((s.setHdr .headerSize { s.hdr with headerSize := s.hdr.size, dataStart := s.hdr.size.toNat }).goto
        (hdrNext s.hdr .size)) := by
  have hw := State.mem_of_has hh
  refine finish_next (Act.run_eq (State.expectHdr_ok hs) (Act.run_eq (State.needRegs_written ?_)
    (State.setHdr_hdrDone_eq ?_)))
  · simp [hw]
  · simp [hdrNeeds, hw]

section

variable (hs : s.seq.stage = .hdr .xval) (hh : s.has [.alphaField, .headerSize, .alphaBytes] = true)
  (ha : s.hdr.alphaField = true)

include hs hh ha

theorem execHdrXval_next (h : s.hdr.headerSize.toNat + s.hdr.alphaBytes.toNat ≤ s.len) :
    execHdrXval s = .next (s.goto (.hdr .dataEnd)) :=
  finish_next (Act.run_eq (State.expectHdr_ok hs) (Act.run_eq (State.needRegs_ok hh) (Act.expect_eq ha
    (Act.require_eq (decide_eq_true h) (State.hdrDone_free rfl)))))

theorem execHdrXval_raises (h : s.len < s.hdr.headerSize.toNat + s.hdr.alphaBytes.toNat) :
    Raises (execHdrXval s) s .invalidData :=
  finish_raises (Act.run_eq (State.expectHdr_ok hs) (Act.run_eq (State.needRegs_ok hh) (Act.expect_eq ha
    (Act.require_raises (decide_eq_false (Nat.not_le.mpr h))))))

end

theorem execHdrDataEnd_next (hs : s.seq.stage = .hdr .dataEnd) (hh : s.has [.alphaField, .headerSize] = true)
    (ha : s.hdr.alphaField = true → s.has [.alphaBytes] = true) :
    execHdrDataEnd s =
      .next ((s.setHdr .dataEnd { s.hdr with
        dataEnd := if s.hdr.alphaField then s.hdr.headerSize.toNat + s.hdr.alphaBytes.toNat else s.len }).goto
        (.hdr .qpGate)) := by
  have ends {e : Nat} (he : e = if s.hdr.alphaField then s.hdr.headerSize.toNat + s.hdr.alphaBytes.toNat else s.len) :
      (s.setHdr .dataEnd { s.hdr with dataEnd := e }).hdrDone .dataEnd =
      .ok ((s.setHdr .dataEnd { s.hdr with
        dataEnd := if s.hdr.alphaField then s.hdr.headerSize.toNat + s.hdr.alphaBytes.toNat else s.len }).goto
        (.hdr .qpGate)) := by
    rw [← he]
    exact State.setHdr_hdrDone_free rfl
  refine finish_next (Act.run_eq (State.expectHdr_ok hs) (Act.run_eq (State.needRegs_ok hh)
    (ite_eq_iff'.mpr ⟨fun haf => ?_, fun haf => ?_⟩)))
  · exact Act.run_eq (State.rd_ok (State.has_cons.mp (ha haf)).1) (ends (if_pos haf).symm)
  · exact Act.run_eq rfl (ends (if_neg haf).symm)

/-! ### The gate and the first frame -/

theorem execHdrQpGate_next (hs : s.seq.stage = .hdr .qpGate) (hh : s.has [.flagsAB, .flagsCD] = true) :
    execHdrQpGate s = .next ((s.setHdr .qpGate { s.hdr with qpGate := gateOf s }).goto .orchestrate) :=
  finish_next (Act.run_eq (State.expectHdr_ok hs) (Act.run_eq (State.needRegs_ok hh) (State.setHdr_hdrDone_free rfl)))

theorem execHdrFirst_animated (hs : s.seq.stage = .hdr .first)
    (hh : s.has [.flagsAB, .alphaField, .version, .anim] = true) (ha : s.hdr.animated = true) :
    execHdrFirst s =
      .next ((s.setHdr .isFirst { s.hdr with isFirst := firstOf s }).goto (hdrNext s.hdr .first)) := by
  have hw := State.mem_of_has hh
  refine finish_next (Act.run_eq (State.expectHdr_ok hs) (Act.run_eq (State.needRegs_written ?_)
    ((if_pos ha).trans (Act.run_eq (State.needRegs_written ?_) (State.setHdr_hdrDone_eq ?_)))))
  · simp [hw]
  · simp [hw]
  · simp [hdrNeeds, hw]

theorem execHdrFirst_still (hs : s.seq.stage = .hdr .first) (hh : s.has [.flagsAB, .alphaField, .version] = true)
    (ha : s.hdr.animated = false) : execHdrFirst s = .next (s.goto (hdrNext s.hdr .first)) := by
  have hw := State.mem_of_has hh
  refine finish_next (Act.run_eq (State.expectHdr_ok hs) (Act.run_eq (State.needRegs_written ?_)
    ((if_neg (Bool.eq_false_iff.mp ha)).trans (State.hdrDone_eq ?_))))
  · simp [hw]
  · simp [hdrNeeds, hw]

end

/-! ## The fields of P1 and P9 under the test configuration (92_eei_decisions.md D41) -/

section

theorem msbBits_eq_map (n v : Nat) : msbBits n v = (List.range n).reverse.map v.testBit := by
  induction n with
  | zero => rfl
  | succ n ih => simp [msbBits, ih, List.range_succ]

/-- A field of `k` consecutive bits from bit `lo` on, the most significant first. -/
theorem fieldOf_eq_extract {n lo k : Nat} {bits : List (Fin n)}
    (hbits : bits.map Fin.val = (List.range k).reverse.map (lo + ·)) (v : BitVec n) :
    fieldOf bits v = (v.extractLsb' lo k).toNat := by
  have hread : (bits.map Fin.val).map v.getLsbD = msbBits k (v.extractLsb' lo k).toNat := by
    rw [hbits, msbBits_eq_map, List.map_map]
    refine List.map_congr_left fun i hi => ?_
    have hik : i < k := by simpa using hi
    simp [BitVec.testBit_toNat, hik]
  rw [← valueOfBits_msbBits (v.extractLsb' lo k).isLt, ← hread, fieldOf, valueOfBits, List.foldl_map, List.foldl_map]

variable (a b c d : Byte)

theorem flagOf_flagPair {i : Fin 16} (hi : i.val < 8) : flagOf i (flagPair a b) = a.getLsbD i.val := by
  exact BitVec.getLsbD_append.trans (if_pos hi)

/-- A field of the second flag byte, as a number of 16 bits. -/
theorem fieldOf_second {lo k : Nat} {m : Byte} {bits : List (Fin 16)}
    (hbits : bits.map Fin.val = (List.range k).reverse.map (8 + lo + ·)) (hm : m.toNat = 2 ^ k - 1) :
    BitVec.ofNat 16 (fieldOf bits (flagPair a b)) = ((b >>> lo) &&& m).setWidth 16 := by
  have hmask : ((b >>> lo) &&& m).toNat = b.toNat >>> lo % 2 ^ k := by
    rw [BitVec.toNat_and, BitVec.toNat_ushiftRight, hm, Nat.and_two_pow_sub_one_eq_mod]
  have hsecond : (flagPair a b).extractLsb' (8 + lo) k = b.extractLsb' (8 + lo - 8) k :=
    BitVec.extractLsb'_append_eq_of_le (Nat.le_add_right 8 lo)
  rw [fieldOf_eq_extract hbits, hsecond, Nat.add_sub_cancel_left, BitVec.extractLsb'_toNat, ← hmask,
    BitVec.ofNat_toNat]

theorem fieldOf_fourth :
    fieldOf [31, 30, 29, 28, 27, 26, 25, 24] (flagPair c d ++ flagPair a b) = d.toNat := by
  rw [fieldOf_eq_extract (lo := 24) (k := 8) rfl, BitVec.extractLsb'_append_eq_of_le (by decide)]
  exact congrArg BitVec.toNat BitVec.extractLsb'_append_eq_left

variable {cfg : Config} {h : Header}

theorem decodeAB_tc0 (hl : cfg.abLegacy = Config.tc0.abLegacy) (hm : cfg.abModern = Config.tc0.abModern) :
    decodeAB cfg h a b = { h with
      flagsA := a
      flagsB := b
      transparency := a.getLsbD 0
      animated := a.getLsbD 1
      extraException := a.getLsbD 2
      dynamicTable := !h.legacy && a.getLsbD 3
      encoderMode := (if h.legacy then b &&& 0x0F else b &&& 0x07).setWidth 16
      depth := ((b >>> 4) &&& 0x03).setWidth 16 } := by
  have hflag {i : Fin 16} (hi : i.val < 8) := flagOf_flagPair a b hi
  have hlayout : (if h.legacy then cfg.abLegacy else cfg.abModern) =
      FlagsABLayout.tc0 (if h.legacy then [11, 10, 9, 8] else [10, 9, 8]) := by
    rw [hl, hm, apply_ite FlagsABLayout.tc0]
    rfl
  have hmode : BitVec.ofNat 16 (fieldOf (if h.legacy then [11, 10, 9, 8] else [10, 9, 8]) (flagPair a b)) =
      (if h.legacy then b &&& 0x0F else b &&& 0x07).setWidth 16 := by
    split
    · exact fieldOf_second a b (lo := 0) (k := 4) rfl rfl
    · exact fieldOf_second a b (lo := 0) (k := 3) rfl rfl
  have hdepth : BitVec.ofNat 16 (fieldOf [13, 12] (flagPair a b)) = ((b >>> 4) &&& 0x03).setWidth 16 :=
    fieldOf_second a b (lo := 4) (k := 2) rfl rfl
  simp (disch := decide) only [decodeAB, hlayout, FlagsABLayout.tc0, hflag, hmode, hdepth]
  rfl

theorem decodeCD_tc0 (hl : cfg.cdLegacy = Config.tc0.cdLegacy) (hm : cfg.cdModern = Config.tc0.cdModern) :
    decodeCD cfg h c d = { h with
      flagsC := c
      flagsD := d
      indexColor := c.getLsbD 0
      ninePatch := c.getLsbD 1
      gray := c.getLsbD 2
      premultiplied := c.getLsbD 3
      isOpaque := c.getLsbD 4
      notAlphaComposited := c.getLsbD 5 } := by
  have hflag {i : Fin 16} (hi : i.val < 8) := flagOf_flagPair c d hi
  have hlayout : (if h.legacy then cfg.cdLegacy else cfg.cdModern) = FlagsCDLayout.tc0 := by
    rw [hl, hm]
    exact ite_self _
  simp (disch := decide) only [decodeCD, hlayout, FlagsCDLayout.tc0, hflag]
  rfl

theorem gateOf_tc0 {s : State} (hq : s.cfg.qpGate = Config.tc0.qpGate) : gateOf s = decide (s.hdr.flagsD = 0) := by
  have hfields : s.cfg.qpGate = .fields [31, 30, 29, 28, 27, 26, 25, 24] [] := hq
  simp only [gateOf, hfields, fieldOf_fourth, List.any_nil, Bool.or_false, beq_eq_decide]
  exact decide_eq_decide.mpr (BitVec.toNat_inj (y := 0))

theorem firstOf_tc0 {s : State} (hf : s.cfg.firstFrame = Config.tc0.firstFrame) :
    firstOf s = decide (s.hdr.currentFrame = 0) := by
  have hzero : s.cfg.firstFrame = .currentIsZero := hf
  simp only [firstOf, hzero]
  rfl

end

/-! ## The header front end's statements -/

/-- Settles O16: the two parts of the row (`execHdrAlphaModern_read_next`, `execHdrAlphaModern_scale_next`), the scaling
without wrap (`scaledAlpha_toNat`), and the field of four bytes at 12 (`step_hdr`). -/
theorem hdrAlphaModern : Obligations.HdrAlphaModern := by
  unfold Obligations.HdrAlphaModern
  intro s raw mode pad
  refine ⟨fun hs hh ha hl => ?_, fun hs hlen => step_hdr (n := 4) hs nofun (by decide) hlen fun _ => rfl,
    fun hs hh hraw hfirst => ⟨_, execHdrAlphaModern_scale_next raw mode pad hs hh hfirst, scaledAlpha_toNat s.hdr hraw,
      rfl, rfl, rfl⟩⟩
  have hv : .version ∈ s.written := State.mem_of_has hh _ (by simp)
  have hkept : (raw.setWidth 32).toNat = raw.toNat := BitVec.toNat_setWidth_of_le (by decide)
  exact ⟨fun hlen => ⟨_, execHdrAlphaModern_read_next hs hh ha raw mode pad hl hlen, hkept, rfl, rfl, rfl, rfl⟩,
    fun hlen => ⟨execHdrAlphaModern_read_short hs hh ha raw mode pad hl hlen, step_alphaModern_short hs hv hl hlen⟩,
    step_alphaModern hs hv hl⟩

/-- Settles O11: the length is checked by the row itself, the magic already by the decoder (`step_badMagic`). -/
theorem hdrLenMagic : Obligations.HdrLenMagic := by
  unfold Obligations.HdrLenMagic
  exact fun s => ⟨execHdrLen_next, execHdrLen_short, execHdrMagic_next,
    fun hs hlen h => ⟨execHdrMagic_raises hs hlen h, step_badMagic hs hlen h⟩⟩

/-- Settles O12: one byte each, at 2 and 3 (`step_hdr`). -/
theorem hdrVersionRawType : Obligations.HdrVersionRawType := by
  unfold Obligations.HdrVersionRawType
  exact fun s b => ⟨execHdrVersion_next b, execHdrRawType_next, execHdrRawType_raises,
    fun hs hlen => step_hdr (n := 1) hs nofun (by decide) hlen fun _ => rfl,
    fun hs hlen => step_hdr (n := 1) hs nofun (by decide) hlen fun _ => rfl⟩

/-- Settles O13: TC0's layouts place each flag in one of the two bytes (`decodeAB_tc0`, `decodeCD_tc0`). -/
theorem hdrFlagsTC0 : Obligations.HdrFlagsTC0 := by
  unfold Obligations.HdrFlagsTC0
  intro s a b habl habm hcdl hcdm hv
  refine ⟨fun hs => ?_, fun hs => ?_, fun hs hlen => step_hdr (n := 2) hs nofun (by decide) hlen fun _ => rfl,
    fun hs hlen => step_hdr (n := 2) hs nofun (by decide) hlen fun _ => rfl⟩
  · rw [← decodeAB_tc0 a b habl habm]
    exact execHdrFlagsAB_next a b hs hv
  · rw [← decodeCD_tc0 a b hcdl hcdm]
    exact execHdrFlagsCD_next a b hs hv

/-- Settles O14: the two words are the four bytes from 6 on (`step_hdr`). -/
theorem hdrDims : Obligations.HdrDims := by
  unfold Obligations.HdrDims
  exact fun s w h hs => ⟨execHdrDims_next hs, execHdrDims_raises hs,
    fun hlen => step_hdr (n := 4) hs nofun (by decide) hlen fun _ => rfl⟩

/-- Settles O15: presence by `execHdrAlphaPresent_next`, and the field of four bytes at 12, which both `need` and the
decoder ask for. -/
theorem hdrAlphaLegacy : Obligations.HdrAlphaLegacy := by
  unfold Obligations.HdrAlphaLegacy
  intro s raw
  refine ⟨execHdrAlphaPresent_next, fun hs hh ha hl => ?_⟩
  have hv : .version ∈ s.written := State.mem_of_has hh _ (by simp)
  refine ⟨fun hlen => ⟨_, execHdrAlphaLegacy_next hs hh ha raw hl hlen, rfl, rfl, ?_, rfl⟩,
    fun hlen => ⟨execHdrAlphaLegacy_short hs hh ha raw hl hlen, step_alphaLegacy_short hs hv hl hlen⟩,
    step_alphaLegacy hs hv hl⟩
  exact State.has_cons.mpr ⟨State.mem_mark_of_mem State.mem_setHdr_self,
    State.has_cons.mpr ⟨State.mem_setHdr_self, rfl⟩⟩

/-- Settles O17: the fields are the eight bytes from 16 on, which both `need` and the decoder ask for. -/
theorem hdrAnim : Obligations.HdrAnim := by
  unfold Obligations.HdrAnim
  exact fun s total current delay noRepeat pad hs hh ha =>
    ⟨execHdrAnim_next total current delay noRepeat pad hs hh ha,
      fun hlen => ⟨execHdrAnim_short total current delay noRepeat pad hs hh ha hlen,
        step_hdr_short hs nofun (by decide) hlen (decodeHeader_anim_short _ _)⟩,
      fun hlen => step_hdr (n := 8) hs nofun (by decide) hlen fun _ => rfl⟩

/-- Settles O18: the count lies at `State.countAt`, and `HDR.SIZE` sets the data start to the header size. -/
theorem hdrIndex : Obligations.HdrIndex := by
  unfold Obligations.HdrIndex
  refine ⟨fun s pad count hs hh hi => ?_, fun s hs hh => ⟨_, execHdrSize_next hs hh, rfl⟩⟩
  have hw : s.has [.flagsCD, .headerSize] = true := by simp [State.has, State.mem_of_has hh]
  refine ⟨fun hn hlen => ?_, fun hn hlen => ?_, fun hn hlen => ?_, fun hn hlen => ?_, step_index_plain hs hw,
    step_index_ninePatch hs hw⟩
  · refine ⟨_, execHdrIndex_next (pad := none) hs hh hi hn.symm count (by rwa [State.countAt_plain hn]), ?_, rfl, rfl⟩
    rw [State.countAt_plain hn]
    rfl
  · refine ⟨_, execHdrIndex_next (pad := some pad) hs hh hi hn.symm count (by rwa [State.countAt_ninePatch hn]), ?_,
      rfl, rfl⟩
    rw [State.countAt_ninePatch hn]
    rfl
  · exact execHdrIndex_short (pad := none) hs hh hi hn.symm count (by rwa [State.countAt_plain hn])
  · exact execHdrIndex_short (pad := some pad) hs hh hi hn.symm count (by rwa [State.countAt_ninePatch hn])

/-- Settles O19: the sum of R112 fits `header_size` (`headerSize_toNat`), and the other two rows follow their rules. -/
theorem hdrSizeXvalDataEnd : Obligations.HdrSizeXvalDataEnd := by
  unfold Obligations.HdrSizeXvalDataEnd
  refine fun s => ⟨fun hs hh => ⟨_, execHdrSize_next hs hh, ?_, rfl, rfl, ?_, rfl⟩,
    fun hs hh ha => ⟨execHdrXval_next hs hh ha, execHdrXval_raises hs hh ha⟩, execHdrDataEnd_next⟩
  · exact headerSize_toNat s.hdr.alphaField s.hdr.animated
  · exact State.has_cons.mpr ⟨State.mem_setHdr_self, rfl⟩

/-- Settles O20: TC0's P9 and P12 (`gateOf_tc0`, `firstOf_tc0`) in the two rows. -/
theorem hdrQpFirstTC0 : Obligations.HdrQpFirstTC0 := by
  unfold Obligations.HdrQpFirstTC0
  refine fun s hq hf => ⟨fun hs hh => ?_, fun hs hh ha => ?_, execHdrFirst_still⟩
  · rw [← gateOf_tc0 hq]
    exact execHdrQpGate_next hs hh
  · rw [← firstOf_tc0 hf]
    exact execHdrFirst_animated hs hh ha

end Sys2Proof.Machine

namespace Sys2Proof.Machine

open Sys2Proof

/-! ## The value of a field

The bits of a field are the bits of its value, the first the most significant (41_readers.md R130), and the bytes of a
multi-byte value are its digits, the first the least significant (R136, R137). -/

theorem getElem?_msbBits {n j : Nat} (v : Nat) (h : j < n) : (msbBits n v)[j]? = some (v.testBit (n - 1 - j)) := by
  induction n generalizing j with
  | zero => omega
  | succ n ih =>
    cases j with
    | zero => rfl
    | succ j =>
      rw [msbBits, List.getElem?_cons_succ, ih (by omega)]
      congr 2
      omega

theorem getElem?_eq_testBit_valueOfBits {bits : List Bool} {n j : Nat} (hlen : bits.length = n) (h : j < n) :
    bits[j]? = some ((valueOfBits bits).testBit (n - 1 - j)) := by
  rw [← getElem?_msbBits _ h, ← hlen, msbBits_valueOfBits]

/-- A byte below the bytes of a value is its lowest digit. -/
theorem toNat_append_byte {w : Nat} (x : BitVec w) (b : Byte) : (x ++ b).toNat = b.toNat + 2 ^ 8 * x.toNat := by
  rw [BitVec.toNat_append, ← Nat.shiftLeft_add_eq_or_of_lt b.isLt, Nat.shiftLeft_eq, Nat.mul_comm, Nat.add_comm]

/-- Settles O28: the value has the cursor's next bits (`getElem?_eq_testBit_valueOfBits`), and a read past the end is an
overrun. -/
theorem bitReadLaw : Obligations.BitReadLaw := by
  unfold Obligations.BitReadLaw
  refine fun c m n => ⟨fun h => ⟨valueOfBits (c.bits m n), BitCursor.read_ok h, ?_, fun j hj => ?_⟩,
    BitCursor.read_short⟩
  · simpa using valueOfBits_lt (c.bits m n)
  · have hbit := getElem?_eq_testBit_valueOfBits (c.length_bits m n) hj
    exact Option.some.inj (hbit.symm.trans (by simp [BitCursor.bits, BitCursor.bitAt, hj]))

/-- Settles O29: a read delivers all its bytes or none, and each further byte of a multi-byte value is the digit above
the ones before it (`toNat_append_byte`). -/
theorem byteReadLaw : Obligations.ByteReadLaw := by
  unfold Obligations.ByteReadLaw
  refine ⟨fun c m n => ⟨fun h => ⟨c.bytes m n, ByteCursor.read_ok h, c.length_bytes m n, fun j hj => ?_⟩,
    ByteCursor.read_short⟩, fun b0 b1 => toNat_append_byte b1 b0, fun b0 b1 b2 b3 => ?_⟩
  · simp [ByteCursor.bytes, hj]
  · simp only [le32, toNat_append_byte]
    omega

end Sys2Proof.Machine

namespace Sys2Proof

open Sys2Proof.Machine

/-! ## Fields that are cut short

A read of the decoder that finds too little left is an overrun (41_readers.md R131, R134). -/

section

variable {α β : Type} {n k : Nat} {bits : List Bool} {bytes : List Byte}

/-- What goes on from a first part that answers. -/
theorem bind_of_eq_ok {ε : Type} {x : Except ε α} {a : α} (h : x = .ok a) (f : α → Except ε β) : (x >>= f) = f a := by
  rw [h, Act.ok_bind]

/-- What begins with an overrun is one. -/
theorem overrun_bind {x : Except Reject α} (f : α → Except Reject β) (h : x = .error .overrun) :
    (x >>= f) = .error .overrun := by
  rw [h, Act.error_bind]

theorem takeBits_short (h : bits.length < n) : takeBits n bits = .error .overrun := if_neg (Nat.not_le.mpr h)

/-- What overruns on fewer than `k` bits overruns on fewer than `n + k` when `n` bits are taken first. -/
theorem takeBits_bind_short {f : Nat × List Bool → Except Reject α}
    (hf : ∀ v rest, rest.length < k → f (v, rest) = .error .overrun) (h : bits.length < n + k) :
    (takeBits n bits >>= f) = .error .overrun := by
  unfold takeBits
  split
  · exact hf _ _ (by rw [List.length_drop]; omega)
  · rfl

theorem takeBytes_short (h : bytes.length < n) : takeBytes n bytes = .error .overrun := if_neg (Nat.not_le.mpr h)

theorem takeBytes_bind_short {f : List Byte × List Byte → Except Reject α}
    (hf : ∀ bs rest, rest.length < k → f (bs, rest) = .error .overrun) (h : bytes.length < n + k) :
    (takeBytes n bytes >>= f) = .error .overrun := by
  unfold takeBytes
  split
  · exact hf _ _ (by rw [List.length_drop]; omega)
  · rfl

/-- A field that is all that is read overruns when it is cut. -/
theorem takeU8_bind_overrun (f : Byte × List Byte → Except Reject α) (h : bytes.length < 1) :
    (takeU8 bytes >>= f) = .error .overrun :=
  takeU8_bind_short (n := 0) (fun _ _ h => absurd h (Nat.not_lt_zero _)) h

theorem takeU16_bind_overrun (f : Half × List Byte → Except Reject α) (h : bytes.length < 2) :
    (takeU16 bytes >>= f) = .error .overrun :=
  takeU16_bind_short (n := 0) (fun _ _ h => absurd h (Nat.not_lt_zero _)) h

theorem takeU32_bind_overrun (f : Word × List Byte → Except Reject α) (h : bytes.length < 4) :
    (takeU32 bytes >>= f) = .error .overrun :=
  takeU32_bind_short (n := 0) (fun _ _ h => absurd h (Nat.not_lt_zero _)) h

theorem takeU16s_short (h : bytes.length < 2 * n) : takeU16s n bytes = .error .overrun := by
  induction n generalizing bytes with
  | zero => omega
  | succ n ih => exact takeU16_bind_short (fun _ _ hrest => overrun_bind _ (ih hrest)) h

/-- A continuation value never ends among bytes 0xFF (44_w2_depth1.md R202). -/
theorem takeValue_allFF (h : ∀ b ∈ bytes, b = 0xFF) : takeValue bytes = .error .overrun := by
  induction bytes with
  | nil => rfl
  | cons b bytes ih =>
    rw [takeValue, if_pos (h b List.mem_cons_self)]
    exact overrun_bind _ (ih fun c hc => h c (List.mem_cons_of_mem b hc))

/-- A proper beginning of a code is no code (30_encoding.md R88). -/
theorem takeCode_cut [DecidableEq α] {tree : PrefixCode α} {code : List Bool} {a : α}
    (h : tree.spells code a = true) (hn : n < code.length) : takeCode tree (code.take n) = .error .overrun := by
  induction tree generalizing code n with
  | leaf b => cases code <;> simp [PrefixCode.spells] at h hn
  | node zero one hz ho =>
    cases code with
    | nil => exact absurd hn (Nat.not_lt_zero n)
    | cons b code =>
      cases n with
      | zero => rfl
      | succ n =>
        have hn' : n < code.length := Nat.lt_of_succ_lt_succ hn
        cases b
        · exact overrun_bind _ (hz h hn')
        · exact overrun_bind _ (ho h hn')

end

section

variable {st : Streams} {m : Nat} {r : List Bool}

theorem withMask_short (mk : Half → Instr) (h : st.maskc.length < 2) : withMask st mk = .error .overrun :=
  takeU16_bind_overrun _ h

/-- The mask of a mode that is not `EDGE` is cut. -/
theorem decodeTile2_mask_short (hm : takeBits 2 st.bit1 = .ok (m, r)) (hne : m ≠ 3) (h : st.maskc.length < 2) :
    decodeTile2 st = .error .overrun := by
  obtain ⟨hlt, -⟩ := takeBits_eq_ok.mp hm
  obtain rfl | rfl | rfl : m = 0 ∨ m = 1 ∨ m = 2 := by dsimp only at hlt; omega
  all_goals exact (bind_of_eq_ok hm _).trans (withMask_short _ h)

theorem decodeSub2_mask_short (hm : takeBits 2 st.bit1 = .ok (m, r)) (hne : m ≠ 3) (h : st.maskc.length < 2) :
    decodeSub2 st = .error .overrun := by
  obtain ⟨hlt, -⟩ := takeBits_eq_ok.mp hm
  obtain rfl | rfl | rfl : m = 0 ∨ m = 1 ∨ m = 2 := by dsimp only at hlt; omega
  all_goals exact (bind_of_eq_ok hm _).trans (withMask_short _ h)

/-- The mask of a mode that is neither `EDGE` nor a copy is cut. -/
theorem decodeSub3_mask_short (hm : takeBits 3 st.bit1 = .ok (m, r)) (hne : ¬(m = 3 ∨ m = 5 ∨ m = 7))
    (h : st.maskc.length < 2) : decodeSub3 st = .error .overrun := by
  obtain ⟨hlt, -⟩ := takeBits_eq_ok.mp hm
  obtain rfl | rfl | rfl | rfl | rfl : m = 0 ∨ m = 1 ∨ m = 2 ∨ m = 4 ∨ m = 6 := by dsimp only at hlt; omega
  all_goals exact (bind_of_eq_ok hm _).trans (withMask_short _ h)

theorem decodePixel_class_short (h : st.bit2.length < 3) : decodePixel false st = .error .overrun :=
  overrun_bind _ (takeBits_short h)

theorem decodePixel_literal_short (hm : takeBits 3 st.bit2 = .ok (7, r)) (h : st.litc.length < 2) :
    decodePixel false st = .error .overrun :=
  (bind_of_eq_ok hm _).trans (takeU16_bind_overrun _ h)

theorem decodePixel_index_short (hm : takeBits 3 st.bit2 = .ok (m, r)) (hne : m ≠ 7) (h : st.bit1.length < m + 1) :
    decodePixel false st = .error .overrun :=
  (bind_of_eq_ok hm _).trans ((if_neg hne).trans (overrun_bind _ (takeBits_short h)))

/-- The table of 512 signs and 512 magnitudes is cut (30_encoding.md R77). -/
theorem decodeTable_short (h : st.tabc.length < 1536) : decodeTable true st = .error .overrun :=
  takeBytes_bind_short (n := 512) (k := 1024) (fun _ _ hrest => overrun_bind _ (takeU16s_short (n := 512) hrest)) h

end

/-! ### Macroblock codes (30_encoding.md R78, R79) -/

section

variable {rest : List Bool}

theorem decodeMb16_nil : decodeMb16 { bit1 := [] } = .error .overrun := rfl

theorem decodeMb16_copyBit_cut : decodeMb16 { bit1 := [true] } = .error .overrun := rfl

theorem decodeMb16_zeroBit_cut : decodeMb16 { bit1 := [true, false] } = .error .overrun := rfl

theorem decodeMb16_vector_short (h : rest.length < 15) :
    decodeMb16 { bit1 := [true, false, false] ++ rest } = .error .overrun :=
  takeBits_bind_short (n := 8) (k := 7) (fun _ _ hrest => overrun_bind _ (takeBits_short hrest)) h

end

end Sys2Proof

namespace Sys2Proof.Machine

open Sys2Proof

/-! ## What a short cursor has left -/

section

variable {s : State} {id : BitCur} {k n : Nat} {code : List Bool}

theorem State.bitsShort_iff :
    s.bitsShort id n = true ↔ s.bitsReady id 0 = true ∧ (s.bitCur id).avail < n := by
  simp [State.bitsShort, State.bitsReady]

theorem State.peekBits_short (h : s.bitsShort id k = true) (hk : k ≤ n) :
    ∃ bits, s.peekBits id n = .ok bits ∧ bits.length < k := by
  obtain ⟨hlive, havail⟩ := State.bitsShort_iff.mp h
  exact ⟨_, State.peekBits_ok n hlive, by rw [State.bitsUnder, BitCursor.length_bits]; omega⟩

theorem State.peekBits_none (h : s.bitsShort id 1 = true) (hn : 1 ≤ n) : s.peekBits id n = .ok [] := by
  obtain ⟨bits, hbits, hlen⟩ := State.peekBits_short h hn
  rwa [List.length_eq_zero_iff.mp (Nat.lt_one_iff.mp hlen)] at hbits

/-- Bits of which some are known, and the others are too few. -/
theorem State.peekBits_code_short (hc : s.codeUnder id code = true) (h : s.bitsShort id (code.length + k) = true)
    (hn : code.length + k ≤ n) : ∃ rest, s.peekBits id n = .ok (code ++ rest) ∧ rest.length < k := by
  obtain ⟨rest, hrest⟩ := State.peekBits_code hc (Nat.le_of_add_right_le hn)
  obtain ⟨bits, hbits, hlen⟩ := State.peekBits_short h hn
  obtain rfl : code ++ rest = bits := Except.ok.inj (hrest.symm.trans hbits)
  exact ⟨rest, hrest, by simpa using hlen⟩

/-- Bits after which the cursor ends. -/
theorem State.peekBits_code_last (hc : s.codeUnder id code = true) (h : s.bitsShort id (code.length + 1) = true)
    (hn : code.length + 1 ≤ n) : s.peekBits id n = .ok code := by
  obtain ⟨rest, hrest, hlen⟩ := State.peekBits_code_short hc h hn
  rwa [List.length_eq_zero_iff.mp (Nat.lt_one_iff.mp hlen), List.append_nil] at hrest

/-- A cursor that ends inside a code has a proper beginning of it left. -/
theorem State.peekBits_cut (h : s.codeCut id code = true) (hn : code.length ≤ n) :
    ∃ j, j < code.length ∧ s.peekBits id n = .ok (code.take j) := by
  simp only [State.codeCut, Bool.and_eq_true, beq_iff_eq] at h
  obtain ⟨hshort, hbits⟩ := h
  obtain ⟨hlive, havail⟩ := State.bitsShort_iff.mp hshort
  exact ⟨_, havail, by rw [State.peekBits_ok n hlive, Nat.min_eq_right (by omega), hbits]⟩

theorem State.peekBytes_short {id : ByteCur} (h : s.bytesShort id k = true) (hk : k ≤ n) :
    ∃ bytes, s.peekBytes id n = .ok bytes ∧ bytes.length < k := by
  obtain ⟨c, hc, hholds, havail⟩ := State.bytesShort_iff.mp h
  exact ⟨_, State.peekBytes_ok n hc hholds, by rw [ByteCursor.length_bytes]; omega⟩

/-- A cursor with only bytes 0xFF left delivers no continuation value (44_w2_depth1.md R202). -/
theorem State.peekAllFF {id : ByteCur} (h : s.bytesAllFF id = true) :
    ∃ left bytes, s.bytesLeft id = .ok left ∧ s.peekBytes id left = .ok bytes ∧
      takeValue bytes = .error .overrun := by
  unfold State.bytesAllFF at h
  split at h
  next c hc =>
    simp only [Bool.and_eq_true, List.all_eq_true, beq_iff_eq] at h
    obtain ⟨hholds, hff⟩ := h
    exact ⟨c.avail, _, State.bytesLeft_ok hc hholds, State.peekBytes_ok _ hc hholds,
      takeValue_allFF (by rwa [Nat.min_self])⟩
  next => cases h

end

/-! ## The step of a symbol that is cut short -/

section

variable {s : State} {f : Format} {st : Streams} {k n : Nat}

/-- A host command reads no cursor. -/
theorem decode_command_ne_overrun (st : Streams) : decode .command st ≠ .error .overrun := by
  intro h
  rcases hcmd : st.cmd with _ | (_ | _) <;> simp [decode, hcmd] at h

theorem step_of_overrun (hf : s.format = .ok f) (hst : s.streams f = .ok st) (hd : decode f st = .error .overrun) :
    Raises (step s) s .invalidData :=
  step_of_rejected (r := .overrun) hf hst hd fun heq => decode_command_ne_overrun st (heq ▸ hd)

/-- A symbol whose bits are those of one cursor. -/
theorem step_bits_short {id : BitCur} {mk : List Bool → Streams} (hf : s.format = .ok f)
    (hst : s.streams f = s.peekBits id n >>= fun bits => .ok (mk bits)) (h : s.bitsShort id k = true) (hk : k ≤ n)
    (hd : ∀ bits, bits.length < k → decode f (mk bits) = .error .overrun) :
    Raises (step s) s .invalidData := by
  obtain ⟨bits, hbits, hlen⟩ := State.peekBits_short h hk
  exact step_of_overrun hf (hst.trans (bind_of_eq_ok hbits _)) (hd bits hlen)

/-- A symbol whose bytes are those of one cursor. -/
theorem step_bytes_short {id : ByteCur} {mk : List Byte → Streams} (hf : s.format = .ok f)
    (hst : s.streams f = s.peekBytes id n >>= fun bytes => .ok (mk bytes)) (h : s.bytesShort id n = true)
    (hd : ∀ bytes, bytes.length < n → decode f (mk bytes) = .error .overrun) :
    Raises (step s) s .invalidData := by
  obtain ⟨bytes, hbytes, hlen⟩ := State.peekBytes_short h (Nat.le_refl n)
  exact step_of_overrun hf (hst.trans (bind_of_eq_ok hbytes _)) (hd bytes hlen)

end

/-! ### Tiles and sub-blocks -/

section

variable {s : State} {f : Format} {m n : Nat}

/-- A symbol of a mode and a mask, when the mode is cut. -/
theorem step_mode_short (hf : s.format = .ok f) (hst : s.streams f = s.modeStreams n)
    (hb : s.bitsShort .bit1 n = true) (hm : s.bytesReady .maskc 0 = true)
    (hd : ∀ st : Streams, st.bit1.length < n → decode f st = .error .overrun) :
    Raises (step s) s .invalidData := by
  obtain ⟨bits, hbits, hlen⟩ := State.peekBits_short hb (Nat.le_refl n)
  obtain ⟨c, hc, hholds, -⟩ := State.bytesReady_iff.mp hm
  have hmode : s.modeStreams n = .ok { bit1 := bits, maskc := c.bytes (s.mem c.mem) (min 2 c.avail) } :=
    (bind_of_eq_ok hbits _).trans (bind_of_eq_ok (State.peekBytes_ok 2 hc hholds) _)
  exact step_of_overrun hf (hst.trans hmode) (hd _ hlen)

/-- A symbol of a mode and a mask, when the mask is cut. -/
theorem step_mask_short (hf : s.format = .ok f) (hst : s.streams f = s.modeStreams n)
    (hb : s.bitsReady .bit1 n = true) (hv : valueOfBits (s.bitsUnder .bit1 n) = m)
    (hm : s.bytesShort .maskc 2 = true)
    (hd : ∀ st : Streams, takeBits n st.bit1 = .ok (m, []) → st.maskc.length < 2 → decode f st = .error .overrun) :
    Raises (step s) s .invalidData := by
  obtain ⟨mask, hmask, hlen⟩ := State.peekBytes_short hm (Nat.le_refl 2)
  have hmode : s.modeStreams n = .ok { bit1 := s.bitsUnder .bit1 n, maskc := mask } :=
    (bind_of_eq_ok (State.peekBits_exact hb) _).trans (bind_of_eq_ok hmask _)
  exact step_of_overrun hf (hst.trans hmode) (hd _ (takeBits_bitsUnder _ hv) hlen)

theorem State.format_tile2 (hs : s.seq.stage = .tile) : s.format = .ok .tile2 := by simp [State.format, hs]

theorem State.format_sub3 (hs : s.seq.stage = .sub .sub3) : s.format = .ok .sub3 := by simp [State.format, hs]

end

/-! ### Pixels -/

section

variable {s : State} {m : Nat}

theorem step_class_short (hf : s.format = .ok (.pixel false)) (h : s.bitsShort .bit2 3 = true)
    (h1 : s.bitsReady .bit1 0 = true) : Raises (step s) s .invalidData := by
  obtain ⟨cls, hcls, hlen⟩ := State.peekBits_short h (Nat.le_refl 3)
  have hne : cls ≠ [true, true, true] := by
    rintro rfl
    exact absurd hlen (by decide)
  have hst : s.streams (.pixel false) = .ok { bit2 := cls, bit1 := s.bitsUnder .bit1 (min 7 s.bit1.avail) } := by
    simp [State.streams, State.pixelStreams, hcls, hne, State.peekBits_ok 7 h1, State.bitCur]
  exact step_of_overrun hf hst (decodePixel_class_short hlen)

theorem step_literal_short (hf : s.format = .ok (.pixel false)) (hb : s.bitsReady .bit2 3 = true)
    (hv : valueOfBits (s.bitsUnder .bit2 3) = 7) (h : s.bytesShort .litc 2 = true) :
    Raises (step s) s .invalidData := by
  obtain ⟨lit, hlit, hlen⟩ := State.peekBytes_short h (Nat.le_refl 2)
  have hst : s.streams (.pixel false) = .ok { bit2 := s.bitsUnder .bit2 3, litc := lit } := by
    simp [State.streams, State.pixelStreams, State.peekBits_exact hb, (State.class_eq_iff hv).mpr rfl, hlit]
  exact step_of_overrun hf hst (decodePixel_literal_short (takeBits_bitsUnder _ hv) hlen)

theorem step_index_short (hf : s.format = .ok (.pixel false)) (hb : s.bitsReady .bit2 3 = true)
    (hv : valueOfBits (s.bitsUnder .bit2 3) = m) (hne : m ≠ 7) (h : s.bitsShort .bit1 (m + 1) = true) :
    Raises (step s) s .invalidData := by
  have htake : takeBits 3 (s.bitsUnder .bit2 3) = .ok (m, []) := takeBits_bitsUnder _ hv
  obtain ⟨hlt, -⟩ := takeBits_eq_ok.mp htake
  obtain ⟨idx, hidx, hlen⟩ := State.peekBits_short (n := 7) h (by dsimp only at hlt; omega)
  have hcls : s.bitsUnder .bit2 3 ≠ [true, true, true] := fun heq => hne ((State.class_eq_iff hv).mp heq)
  have hst : s.streams (.pixel false) = .ok { bit2 := s.bitsUnder .bit2 3, bit1 := idx } := by
    simp [State.streams, State.pixelStreams, State.peekBits_exact hb, hcls, hidx]
  exact step_of_overrun hf hst (decodePixel_index_short htake hne hlen)

end

/-! ### Macroblock codes, cells and the delta table -/

section

variable {s : State} {bits : List Bool}

theorem step_mb16_short (hf : s.format = .ok .mb16) (hbits : s.peekBits .bit1 18 = .ok bits)
    (hd : decodeMb16 { bit1 := bits } = .error .overrun) : Raises (step s) s .invalidData :=
  step_of_overrun hf (bind_of_eq_ok hbits _) hd

/-- The first bit of a macroblock, full or not. -/
theorem step_mb_short (hs : s.seq.stage = .mb) (hd : s.has [.dims] = true) (h : s.bitsShort .bit1 1 = true) :
    Raises (step s) s .invalidData := by
  cases hfull : s.mbFull with
  | true => exact step_mb16_short (State.format_mb16 hs hd hfull) (State.peekBits_none h (by decide)) decodeMb16_nil
  | false =>
    exact step_bits_short (State.format_mbEdge hs hd hfull) rfl h (Nat.le_refl 1) fun _ hlen =>
      overrun_bind _ (takeBits_short hlen)

theorem step_mvCopy_short (hs : s.seq.stage = .mvCopy) (h : s.bitsShort .bit1 1 = true) :
    Raises (step s) s .invalidData :=
  step_bits_short (f := .mvCopy) (by simp [State.format, hs]) rfl h (Nat.le_refl 1) fun _ hlen =>
    overrun_bind _ (takeBits_short hlen)

theorem step_mb16_cut (hs : s.seq.stage = .mb) (hd : s.has [.dims] = true) (hfull : s.mbFull = true) :
    (s.codeUnder .bit1 [true] = true → s.bitsShort .bit1 2 = true → Raises (step s) s .invalidData) ∧
    (s.codeUnder .bit1 [true, false] = true → s.bitsShort .bit1 3 = true → Raises (step s) s .invalidData) ∧
    (s.codeUnder .bit1 [true, false, false] = true → s.bitsShort .bit1 18 = true →
      Raises (step s) s .invalidData) := by
  have hf := State.format_mb16 hs hd hfull
  refine ⟨fun hc h => ?_, fun hc h => ?_, fun hc h => ?_⟩
  · exact step_mb16_short hf (State.peekBits_code_last hc h (by decide)) decodeMb16_copyBit_cut
  · exact step_mb16_short hf (State.peekBits_code_last hc h (by decide)) decodeMb16_zeroBit_cut
  · obtain ⟨rest, hrest, hlen⟩ := State.peekBits_code_short (k := 15) (n := 18) hc h (by decide)
    exact step_mb16_short hf hrest (decodeMb16_vector_short hlen)

theorem State.format_litCell (hs : s.seq.stage = .sub .cells) (hd : s.has [.dims] = true)
    (hfit : s.tileFits (.within .cells) = false) :
    s.format = .ok (.litCell (min 4 (s.fw - s.subAt.1) * min 4 (s.fh - s.subAt.2))) := by
  simp only [State.format, hs, State.cellFormat_ok (State.has_cons.mp hd).1, hfit]
  rfl

theorem step_litCell_short {count : Nat} (hf : s.format = .ok (.litCell count))
    (h : s.bytesShort .edgelit (2 * count) = true) : Raises (step s) s .invalidData :=
  step_bytes_short hf rfl h fun _ hlen => overrun_bind _ (takeU16s_short hlen)

theorem step_dtab_short (hs : s.seq.stage = .table) (hh : s.has [.flagsAB] = true) (hd : s.hdr.dynamicTable = true)
    (h : s.bytesShort .tabc 1536 = true) : Raises (step s) s .invalidData := by
  have hf : s.format = .ok (.table true) := by simp [State.format, hs, State.needRegs_ok hh, hd]
  exact step_bytes_short hf rfl h fun _ hlen => decodeTable_short hlen

end

/-! ### W2 depth 1 -/

section

variable {s : State}

theorem step_value_allFF (hs : s.seq.stage = .w2Index) (h : s.bytesAllFF .idx = true) :
    Raises (step s) s .invalidData := by
  obtain ⟨left, bytes, hleft, hbytes, htake⟩ := State.peekAllFF h
  exact step_of_overrun (f := .value) (by simp [State.format, hs])
    ((bind_of_eq_ok hleft _).trans (bind_of_eq_ok hbytes _)) (overrun_bind _ htake)

theorem step_w2Lit_short (hs : s.seq.stage = .w2Sym 0) (h : s.bytesShort .lit 4 = true) :
    Raises (step s) s .invalidData :=
  step_bytes_short (f := .w2Sym 0) (by simp [State.format, hs]) rfl h fun _ hlen => takeU32_bind_overrun _ hlen

theorem step_w2Run_allFF {idx : Nat} (hidx : 1 ≤ idx) (hs : s.seq.stage = .w2Sym idx) (h : s.bytesAllFF .run = true) :
    Raises (step s) s .invalidData := by
  obtain ⟨left, bytes, hleft, hbytes, htake⟩ := State.peekAllFF h
  have hne : idx ≠ 0 := by omega
  exact step_of_overrun (f := .w2Sym idx) (by simp [State.format, hs])
    ((if_neg hne).trans ((bind_of_eq_ok hleft _).trans (bind_of_eq_ok hbytes _)))
    ((if_neg hne).trans (overrun_bind _ htake))

end

/-! ### W2 depth 2 -/

section

variable {s : State} {d : D2Coding} {strip : Strip} {j : Nat} {code : List Bool} {flag : Bool}

theorem step_d2Strip1_short (hs : s.seq.stage = .d2Strip1) (h : s.bytesShort .d2l 4 = true) :
    Raises (step s) s .invalidData :=
  step_bytes_short (f := .d2Strip1) (by simp [State.format, hs]) rfl h fun _ hlen => takeU32_bind_overrun _ hlen

theorem State.format_d2Dist (hd : s.cfg.d2 = some d) (hs : s.seq.stage = .d2Dist strip j) :
    s.format = .ok (.d2Dist d.distIfClear d.distIfSet) := by
  simp [State.format, hs, State.coding_eq_ok.mpr hd]

/-- A distance is read when the flag bit selects one (45_w2_depth2.md R224). -/
theorem State.distBytes_of_ne_keep {ifClear ifSet : DistOp} (hop : (if flag then ifSet else ifClear) ≠ .keep) :
    s.distBytes ifClear ifSet [flag] = s.peekBytes .d2dist 2 := by
  cases flag with
  | false =>
    cases ifClear with
    | keep => exact absurd rfl hop
    | byte | half => rfl
  | true =>
    cases ifSet with
    | keep => exact absurd rfl hop
    | byte | half => rfl

/-- Without its flag bit no distance is read. -/
theorem step_d2Dist_flag_short (hd : s.cfg.d2 = some d) (hs : s.seq.stage = .d2Dist strip j)
    (h : s.bitsShort .d2b 1 = true) : Raises (step s) s .invalidData :=
  step_of_overrun (st := { d2b := [] }) (State.format_d2Dist hd hs)
    (bind_of_eq_ok (State.peekBits_none h (Nat.le_refl 1)) _) rfl

/-- The distance that the flag bit selects is cut. -/
theorem step_d2Dist_short {k : Nat} (hd : s.cfg.d2 = some d) (hs : s.seq.stage = .d2Dist strip j)
    (hc : s.codeUnder .d2b [flag] = true) (hop : (if flag then d.distIfSet else d.distIfClear) ≠ .keep)
    (h : s.bytesShort .d2dist k = true) (hk : k ≤ 2)
    (hdec : ∀ bytes : List Byte, bytes.length < k →
      decodeD2Dist d.distIfClear d.distIfSet { d2b := [flag], d2dist := bytes } = .error .overrun) :
    Raises (step s) s .invalidData := by
  obtain ⟨hb, hbits⟩ := State.codeUnder_iff.mp hc
  have hpeek : s.peekBits .d2b 1 = .ok [flag] := by rw [← hbits]; exact State.peekBits_exact hb
  obtain ⟨bytes, hbytes, hlen⟩ := State.peekBytes_short h hk
  have hst : s.streams (.d2Dist d.distIfClear d.distIfSet) = .ok { d2b := [flag], d2dist := bytes } :=
    (bind_of_eq_ok hpeek _).trans (bind_of_eq_ok ((State.distBytes_of_ne_keep hop).trans hbytes) _)
  exact step_of_overrun (State.format_d2Dist hd hs) hst (hdec bytes hlen)

theorem step_d2Dist_byte_short (hd : s.cfg.d2 = some d) (hs : s.seq.stage = .d2Dist strip j)
    (hc : s.codeUnder .d2b [flag] = true) (hop : (if flag then d.distIfSet else d.distIfClear) = .byte)
    (h : s.bytesShort .d2dist 1 = true) : Raises (step s) s .invalidData :=
  step_d2Dist_short hd hs hc (by rw [hop]; decide) h (by decide) fun _ hlen => by
    rw [decodeD2Dist_flag, hop]
    exact takeU8_bind_overrun _ hlen

theorem step_d2Dist_half_short (hd : s.cfg.d2 = some d) (hs : s.seq.stage = .d2Dist strip j)
    (hc : s.codeUnder .d2b [flag] = true) (hop : (if flag then d.distIfSet else d.distIfClear) = .half)
    (h : s.bytesShort .d2dist 2 = true) : Raises (step s) s .invalidData :=
  step_d2Dist_short hd hs hc (by rw [hop]; decide) h (by decide) fun _ hlen => by
    rw [decodeD2Dist_flag, hop]
    exact takeU16_bind_overrun _ hlen

theorem step_d2Value_cut {kind : ValueKind} (hd : s.cfg.d2 = some d) (hs : s.seq.stage = .d2Value strip j)
    (hsp : (kindCode d strip j).spells code kind = true) (hc : s.codeCut .d2b code = true) :
    Raises (step s) s .invalidData := by
  obtain ⟨i, hi, hbits⟩ := State.peekBits_cut hc (length_le_codeDepth hsp)
  have htake := takeCode_cut hsp hi
  have hst : s.streams (.d2Value (kindCode d strip j)) = .ok { d2b := code.take i } :=
    (bind_of_eq_ok hbits _).trans (by rw [htake])
  exact step_of_overrun (State.format_d2Value hd hs) hst (overrun_bind _ htake)

theorem step_d2Value_key_short (hd : s.cfg.d2 = some d) (hs : s.seq.stage = .d2Value strip j)
    (hsp : (kindCode d strip j).spells code .xor = true) (hc : s.codeUnder .d2b code = true)
    (h : s.bytesShort .d2key 1 = true) : Raises (step s) s .invalidData := by
  obtain ⟨rest, hrest⟩ := State.peekBits_code hc (length_le_codeDepth hsp)
  obtain ⟨key, hkey, hlen⟩ := State.peekBytes_short h (Nat.le_refl 1)
  have htake := takeCode_of_spells rest hsp
  have hst : s.streams (.d2Value (kindCode d strip j)) = .ok { d2b := code ++ rest, d2key := key } :=
    (bind_of_eq_ok hrest _).trans (by rw [htake]; exact bind_of_eq_ok hkey _)
  exact step_of_overrun (State.format_d2Value hd hs) hst
    ((bind_of_eq_ok htake _).trans (takeU8_bind_overrun _ hlen))

theorem step_d2Value_literal_short (hd : s.cfg.d2 = some d) (hs : s.seq.stage = .d2Value strip j)
    (hsp : (kindCode d strip j).spells code .lit = true) (hc : s.codeUnder .d2b code = true)
    (h : s.bytesShort .d2l 2 = true) : Raises (step s) s .invalidData := by
  obtain ⟨rest, hrest⟩ := State.peekBits_code hc (length_le_codeDepth hsp)
  obtain ⟨lit, hlit, hlen⟩ := State.peekBytes_short h (Nat.le_refl 2)
  have htake := takeCode_of_spells rest hsp
  have hst : s.streams (.d2Value (kindCode d strip j)) = .ok { d2b := code ++ rest, d2l := lit } :=
    (bind_of_eq_ok hrest _).trans (by rw [htake]; exact bind_of_eq_ok hlit _)
  exact step_of_overrun (State.format_d2Value hd hs) hst
    ((bind_of_eq_ok htake _).trans (takeU16_bind_overrun _ hlen))

theorem step_d2Sel_cut {kind : Option StripKind} (hd : s.cfg.d2 = some d) (hs : s.seq.stage = .d2Sel)
    (hsp : d.selector.spells code kind = true) (hc : s.codeCut .d2b code = true) :
    Raises (step s) s .invalidData := by
  obtain ⟨i, hi, hbits⟩ := State.peekBits_cut hc (length_le_codeDepth hsp)
  exact step_of_overrun (State.format_d2Sel hd hs) (bind_of_eq_ok hbits _)
    (overrun_bind _ (takeCode_cut hsp hi))

theorem step_d2Verb_short (hd : s.cfg.d2 = some d) (hs : s.seq.stage = .d2Body .verb)
    (h : s.bytesShort .d2l 16 = true) : Raises (step s) s .invalidData :=
  step_bytes_short (State.format_d2Body hd hs) rfl h fun _ hlen => overrun_bind _ (takeBytes_short hlen)

theorem step_d2Strip2_bits_short (hd : s.cfg.d2 = some d) (hs : s.seq.stage = .d2Body .strip2)
    (hmask : d.maskInBits = true) (h : s.bitsShort .d2b 8 = true) : Raises (step s) s .invalidData :=
  step_bits_short (f := .d2Body .strip2 true) (hmask ▸ State.format_d2Body hd hs) rfl h (Nat.le_refl 8) fun _ hlen =>
    overrun_bind _ (takeBits_short hlen)

theorem step_d2Strip2_byte_short (hd : s.cfg.d2 = some d) (hs : s.seq.stage = .d2Body .strip2)
    (hmask : d.maskInBits = false) (h : s.bytesShort .d2mask 1 = true) : Raises (step s) s .invalidData :=
  step_bytes_short (f := .d2Body .strip2 false) (hmask ▸ State.format_d2Body hd hs) rfl h fun _ hlen =>
    takeU8_bind_overrun _ hlen

theorem State.format_d2Tail (hs : s.seq.stage = .d2Tail) (hh : s.has [.size, .ipos] = true) :
    s.format = .ok (.d2Tail (s.size - s.ipos)) := by
  obtain ⟨hsize, hipos⟩ := State.has_cons.mp hh
  simp [State.format, hs, State.rd_ok hsize, State.rd_ok (State.has_cons.mp hipos).1]

theorem step_d2Tail_short (hs : s.seq.stage = .d2Tail) (hh : s.has [.size, .ipos] = true)
    (h : s.bytesShort .d2l (s.size - s.ipos) = true) : Raises (step s) s .invalidData :=
  step_bytes_short (State.format_d2Tail hs hh) rfl h fun _ hlen => overrun_bind _ (takeBytes_short hlen)

theorem State.depthTwoOverruns (hd : s.cfg.d2 = some d) : DepthTwoOverruns s d := by
  refine ⟨step_d2Strip1_short, fun strip j hs => ⟨step_d2Dist_flag_short hd hs, fun flag hc => ?_⟩,
    fun strip j code kind hs hsp => ⟨step_d2Value_cut hd hs hsp, fun hc => ?_⟩,
    fun code kind hs hsp => step_d2Sel_cut hd hs hsp, step_d2Verb_short hd,
    fun hs => ⟨step_d2Strip2_bits_short hd hs, step_d2Strip2_byte_short hd hs⟩, step_d2Tail_short⟩
  · split
    · trivial
    · exact step_d2Dist_byte_short hd hs hc ‹_›
    · exact step_d2Dist_half_short hd hs hc ‹_›
  · cases kind with
    | backref => trivial
    | xor => exact step_d2Value_key_short hd hs hsp hc
    | lit => exact step_d2Value_literal_short hd hs hsp hc

end

/-- Settles O8: a cursor that is short leaves the decoder too few bits or bytes, and an overrun of the decoder ends the
DECODE with `INVALID_DATA` (`step_of_overrun` with the lemma of each symbol). -/
theorem symbolOverrun : Obligations.SymbolOverrun := by
  unfold Obligations.SymbolOverrun
  refine ⟨fun s d hd => State.depthTwoOverruns hd, fun s => ?_, fun s m c hm => ?_, fun s pr k hp => ?_,
    fun s => step_mb16_cut, fun s hs hd _ _ hfit => step_litCell_short (State.format_litCell hs hd hfit),
    fun s => step_dtab_short⟩
  · refine ⟨fun hs hb hm => ?_, fun hs hb hm => ?_, fun hnext hb hm => ?_, step_mb_short, step_mvCopy_short,
      fun hs _ => step_value_allFF hs, step_w2Lit_short, fun idx => step_w2Run_allFF⟩
    · exact step_mode_short (State.format_tile2 hs) rfl hb hm fun _ hlen => overrun_bind _ (takeBits_short hlen)
    · exact step_mode_short (State.format_sub3 hs) rfl hb hm fun _ hlen => overrun_bind _ (takeBits_short hlen)
    · exact step_mode_short (State.format_sub2 hnext) rfl hb hm fun _ hlen => overrun_bind _ (takeBits_short hlen)
  · refine ⟨fun hs hb hr hne => ?_, fun hs hb hr h3 h5 h7 => ?_, fun hnext hb hr hne => ?_⟩
    · exact step_mask_short (State.format_tile2 hs) rfl hb (BitCursor.value_of_read _ hr) hm fun _ htake =>
        decodeTile2_mask_short htake hne
    · exact step_mask_short (State.format_sub3 hs) rfl hb (BitCursor.value_of_read _ hr) hm fun _ htake =>
        decodeSub3_mask_short htake (by omega)
    · exact step_mask_short (State.format_sub2 hnext) rfl hb (BitCursor.value_of_read _ hr) hm fun _ htake =>
        decodeSub2_mask_short htake hne
  · have hf := State.format_pixel hp
    refine ⟨step_class_short hf, fun m c hb hr => ⟨?_, ?_⟩⟩
    · rintro rfl
      exact step_literal_short hf hb (BitCursor.value_of_read _ hr)
    · exact step_index_short hf hb (BitCursor.value_of_read _ hr)

end Sys2Proof.Machine

namespace Sys2Proof.Machine

open Sys2Proof

/-! ## What the A9LL symbols read

Each lemma gives the state after a read that its cursor can deliver: only that cursor has moved. -/

section

variable {s : State} {n : Nat}

theorem State.skipBits_bit1_eq (h : s.bitsReady .bit1 n = true) :
    s.skipBits .bit1 n = .ok { s with bit1 := s.bit1.after n } :=
  State.skipBits_ok h

theorem State.skipBits_bit2_eq (h : s.bitsReady .bit2 n = true) :
    s.skipBits .bit2 n = .ok { s with bit2 := s.bit2.after n } :=
  State.skipBits_ok h

/-- A byte read, by the place where the cursor's register group keeps it. -/
theorem State.skipBytes_eq {id : ByteCur} {r : Reg} {c : ByteCursor} (hid : s.byteCur id = s.rd r c)
    (h : s.bytesReady id n = true) : s.skipBytes id n = .ok (s.setByteCur (c.after n) id) := by
  obtain ⟨hc, hholds, havail⟩ := State.liveByte_of_ready hid h
  exact State.skipBytes_ok hc hholds havail

/-- A cursor that can deliver `a + b` bytes can deliver `b` of them after the first `a`. -/
theorem State.bytesReady_tabc_after {a b : Nat} (h : s.bytesReady .tabc (a + b) = true) :
    State.bytesReady { s with a9 := s.a9.after s.a9map.tabc a } .tabc b = true := by
  obtain ⟨hc, hholds, havail⟩ := State.liveByte_of_ready rfl h
  have hset : Reg.rsA9LL ∈ s.written := (State.rd_eq_ok.mp hc).1
  refine State.bytesReady_iff.mpr ⟨(s.a9.get s.a9map.tabc).after a, ?_, hholds, ?_⟩
  · simp [State.byteCur, State.rd, hset]
  · simp only [ByteCursor.avail, ByteCursor.after] at havail ⊢
    omega

theorem State.bytesReady_mono {id : ByteCur} {m : Nat} (hm : m ≤ n) (h : s.bytesReady id n = true) :
    s.bytesReady id m = true := by
  obtain ⟨c, hc, hholds, havail⟩ := State.bytesReady_iff.mp h
  exact State.bytesReady_iff.mpr ⟨c, hc, hholds, hm.trans havail⟩

end

/-! ## The tile modes (42_a9ll_intra.md R146-R153) -/

section

variable {s : State} {k : TileKind} {n : Nat}

/-- A mode of `n` bits and a mask open the pixel loop of a predicted tile (R148, R149). -/
theorem State.openMode_eq (pr : Predictor) (mask : Half) (hb : s.bitsReady .bit1 n = true)
    (hm : s.bytesReady .maskc 2 = true) :
    (do let t ← s.skipBits .bit1 n; t.openTile pr k mask) = .ok (s.opened pr k mask n) :=
  Act.run_eq (State.skipBits_bit1_eq hb)
    (Act.run_eq (State.skipBytes_eq (s := { s with bit1 := s.bit1.after n }) rfl hm) rfl)

/-- The frame store after the edge mode (R153). -/
def State.edgeFrame (s : State) (k : TileKind) : Pixels :=
  if (s.tileAt k).1 = 0 then s.frame
  else s.frame.fill (s.tileAt k).1 (s.tileAt k).2 4 4 fun _ y => s.frame.at ((s.tileAt k).1 - 1) y

theorem State.edgeFrame_left (h : (s.tileAt k).1 = 0) : s.edgeFrame k = s.frame := if_pos h

theorem State.edgeFrame_inner (h : 0 < (s.tileAt k).1) :
    s.edgeFrame k =
      s.frame.fill (s.tileAt k).1 (s.tileAt k).2 4 4 fun _ y => s.frame.at ((s.tileAt k).1 - 1) y :=
  if_neg (Nat.ne_of_gt h)

theorem State.edgeTile_eq (hd : .dims ∈ s.written) (hf : s.tileFits k = true) :
    s.edgeTile k = .ok { s with frame := s.edgeFrame k, seq := s.seqAfter k } := by
  obtain ⟨hx, hy⟩ := State.tileFits_iff.mp hf
  refine Act.run_eq (State.origin_ok k hd) ?_
  by_cases hleft : (s.tileAt k).1 = 0
  · rw [State.edgeFrame_left hleft]
    exact (if_pos hleft).trans (State.tileDone_ok k hd)
  · rw [State.edgeFrame_inner (Nat.pos_of_ne_zero hleft)]
    exact (if_neg hleft).trans (Act.run_eq (State.fillRect_ok hd hx hy) (State.tileDone_ok k hd))

/-- A mode of `n` bits, then the edge tile. -/
theorem State.edgeMode_eq (hd : .dims ∈ s.written) (hb : s.bitsReady .bit1 n = true) (hf : s.tileFits k = true) :
    (do let t ← s.skipBits .bit1 n; t.edgeTile k) =
      .ok { s with frame := s.edgeFrame k, bit1 := s.bit1.after n, seq := s.seqAfter k } :=
  Act.run_eq (State.skipBits_bit1_eq hb) (State.edgeTile_eq (s := { s with bit1 := s.bit1.after n }) hd hf)

/-- The four symbols of the edge mode, each at its own control point, are one operation (R153, 43_a9ll_inter.md R180,
R185, R187). -/
theorem exec_edge_eq {i : Instr}
    (hi : s.seq.stage = .tile ∧ k = .frame ∧ n = 2 ∧ i = .tile2Edge ∨
      s.seq.stage = .sub .sub3 ∧ k = .within .sub3 ∧ n = 3 ∧ i = .s3Edge ∨
      s.seq.stage = .sub .sub2 ∧ k = .within .sub2 ∧ n = 2 ∧ i = .s2Edge ∨
      s.seq.stage = .sub .cells ∧ k = .within .cells ∧ n = 2 ∧ i = .s2Edge)
    (hd : .dims ∈ s.written) (hf : s.tileFits k = true) :
    exec i s = finish s (do let t ← s.skipBits .bit1 n; t.edgeTile k) := by
  rcases hi with ⟨hs, rfl, rfl, rfl⟩ | ⟨hs, rfl, rfl, rfl⟩ | ⟨hs, rfl, rfl, rfl⟩ | ⟨hs, rfl, rfl, rfl⟩
  · exact congrArg (finish s) (Act.expect_eq (decide_eq_true hs) rfl)
  · exact congrArg (finish s) (Act.expect_eq (decide_eq_true hs) rfl)
  · exact congrArg (finish s) (Act.run_eq (State.sub2Here_sub2 hs) rfl)
  · exact congrArg (finish s) (Act.run_eq (State.sub2Here_cells hs hd hf) rfl)

/-- A `TILE2` symbol of a directional mode (R146). -/
theorem State.dirTile2_eq (d : Dir) (mask : Half) (hs : s.seq.stage = .tile) (hb : s.bitsReady .bit1 2 = true)
    (hm : s.bytesReady .maskc 2 = true) : s.dirTile2 d mask = .ok (s.opened (.dir d) .frame mask 2) :=
  Act.expect_eq (decide_eq_true hs) (State.openMode_eq (.dir d) mask hb hm)

end

/-- Settles O31: a directional mode is `State.dirTile2` in the direction that P7 gives it. -/
theorem intraTileModes : Obligations.IntraTileModes := by
  unfold Obligations.IntraTileModes
  intro s mask hs hb hm
  have dir (d : Dir) := finish_next (s := s) (State.dirTile2_eq d mask hs hb hm)
  exact ⟨dir _, dir _, dir _⟩

/-- Settles O32: the four symbols are one operation (`exec_edge_eq`), whose frame store is `State.edgeFrame`. -/
theorem edgeMode : Obligations.EdgeMode := by
  unfold Obligations.EdgeMode
  intro s k n i hi hd hb hf
  have hdims := (State.has_cons.mp hd).1
  have hx : (s.tileAt k).1 + 4 ≤ 65536 := (State.tileFits_iff.mp hf).1.trans s.fw_lt.le
  have hnext := (exec_edge_eq hi hdims hf).trans (finish_next (State.edgeMode_eq hdims hb hf))
  exact ⟨_, hnext, State.edgeFrame_left, fun hpos =>
    rectWritten_fill _ _ hx (State.edgeFrame_inner hpos) fun _ _ _ _ => rfl, rfl, rfl, rfl⟩

/-! ## The pixel symbols (42_a9ll_intra.md R149, R154-R158) -/

section

variable {s : State} {pr : Predictor} {k : TileKind} {v : Half}

/-- The state once the pixel that `SEQ` names has taken the value `v` and the loop has gone on (R149). -/
def State.pixelSet (s : State) (k : TileKind) (v : Half) : State :=
  { s with frame := Store.set s.frame (pixKey (s.pixelAt k).1 (s.pixelAt k).2) v, seq := s.seqAfterPixel k }

theorem State.pixelSet_written {set : Bool} (hp : s.pixelStands pr k set = true) :
    PixelWritten s (s.pixelSet k v) (s.pixelAt k).1 (s.pixelAt k).2 v :=
  pixelWritten_set _ _ ((State.pixelAt_lt hp).1.trans s.fw_lt) rfl

theorem State.dims_of_pixelStands {set : Bool} (hp : s.pixelStands pr k set = true) : .dims ∈ s.written := by
  simp only [State.pixelStands, Bool.and_eq_true, State.has_cons] at hp
  obtain ⟨⟨⟨⟨-, hd, -⟩, -⟩, -⟩, -⟩ := hp
  exact hd

theorem State.putPixel_pixelDone_eq {set : Bool} (v : Half) (hp : s.pixelStands pr k set = true) :
    (do let t ← s.putPixel (s.pixelAt k).1 (s.pixelAt k).2 v; t.pixelDone k) = .ok (s.pixelSet k v) := by
  have hd := State.dims_of_pixelStands hp
  obtain ⟨hx, hy⟩ := State.pixelAt_lt hp
  exact Act.run_eq (State.putPixel_ok hd hx hy) (State.pixelDone_ok k hd)

theorem execPixCopy_eq (hp : s.pixelStands pr k true = true)
    (hpred : s.predReady pr (s.pixelAt k).1 (s.pixelAt k).2 = true) :
    execPixCopy s = .next (s.pixelSet k (s.predValue pr (s.pixelAt k).1 (s.pixelAt k).2)) := by
  obtain ⟨hx, hy⟩ := State.pixelAt_lt hp
  exact finish_next (Act.run_eq (State.pixelHere_ok hp)
    (Act.run_eq (State.predict_ok (State.dims_of_pixelStands hp) hpred hx hy) (State.putPixel_pixelDone_eq _ hp)))

/-- The state once a literal's class and its two bytes have been read (R157). -/
def State.literalRead (s : State) : State :=
  { s with bit2 := s.bit2.after 3, a9 := s.a9.after s.a9map.litc 2 }

theorem execPixLit_eq (lit : Half) (hp : s.pixelStands pr k false = true) (h2 : s.bitsReady .bit2 3 = true)
    (hl : s.bytesReady .litc 2 = true) : execPixLit lit s = .next (s.literalRead.pixelSet k lit) :=
  finish_next (Act.run_eq (State.pixelHere_ok hp) (Act.run_eq (State.skipBits_bit2_eq h2)
    (Act.run_eq (State.skipBytes_eq (s := { s with bit2 := s.bit2.after 3 }) rfl hl)
      (State.putPixel_pixelDone_eq (s := s.literalRead) lit hp))))

/-- The state once a residual's class and its index of class `c` have been read (R155, R156). -/
def State.residualRead (s : State) (c : Nat) : State :=
  { s with bit2 := s.bit2.after 3, bit1 := s.bit1.after (c + 1) }

theorem State.delta_eq {a : Nat} (hd : .dt ∈ s.written) (ha : a < s.dt.length) :
    s.delta a = .ok (s.dt.getD a 0) := by
  rw [State.delta_ok hd ha, List.getD_eq_getElem _ _ ha]

section

variable {c i : Nat} (hc : c ≤ 6) (hi : i < 2 ^ (c + 1)) (hp : s.pixelStands pr k false = true)
  (hpred : s.predReady pr (s.pixelAt k).1 (s.pixelAt k).2 = true) (hdt : .dt ∈ s.written) (hlen : s.dt.length = 511)
  (h2 : s.bitsReady .bit2 3 = true) (h1 : s.bitsReady .bit1 (c + 1) = true)

include hc hi hp hpred hdt hlen h2 h1

/-- A residual adds its table entry to the predictor (R155, R156, R158), whatever its class. -/
theorem State.residual_eq :
    s.residual c i = .ok ((s.residualRead c).pixelSet k
      (s.predValue pr (s.pixelAt k).1 (s.pixelAt k).2 + s.dt.getD (deltaAddress c i) 0)) := by
  obtain ⟨hx, hy⟩ := State.pixelAt_lt hp
  have hd := State.dims_of_pixelStands hp
  exact Act.run_eq (State.pixelHere_ok hp) (Act.run_eq (State.skipBits_bit2_eq h2)
    (Act.run_eq (State.skipBits_bit1_eq (s := { s with bit2 := s.bit2.after 3 }) h1)
      (Act.run_eq (State.predict_ok (s := s.residualRead c) hd hpred hx hy)
        (Act.run_eq (State.delta_eq (s := s.residualRead c) hdt (hlen ▸ deltaAddress_lt hc hi))
          (State.putPixel_pixelDone_eq (s := s.residualRead c) _ hp)))))

theorem residualWritten : ResidualWritten s pr k c i (finish s (s.residual c i)) :=
  ⟨_, finish_next (State.residual_eq hc hi hp hpred hdt hlen h2 h1),
    State.pixelSet_written (s := s.residualRead c) hp, rfl, rfl, rfl, rfl⟩

end

end

/-! ### The addresses of the residual classes (42_a9ll_intra.md R156) -/

theorem deltaAddress_add_two (c i : Nat) : deltaAddress c i + 2 = i + 2 ^ (c + 1) := by
  have hpow : 2 ^ 1 ≤ 2 ^ (c + 1) := Nat.pow_le_pow_right (by decide) (by omega)
  unfold deltaAddress
  omega

/-- The class is the logarithm of the address: the ranges of the classes do not overlap. -/
theorem log_deltaAddress {c i : Nat} (hi : i < 2 ^ (c + 1)) : Nat.log 2 (deltaAddress c i + 2) = c + 1 := by
  rw [deltaAddress_add_two]
  exact Nat.log_eq_of_pow_le_of_lt_pow (Nat.le_add_left _ _) (by rw [Nat.pow_succ 2 (c + 1)]; omega)

theorem deltaAddress_inj {c i c' i' : Nat} (hi : i < 2 ^ (c + 1)) (hi' : i' < 2 ^ (c' + 1))
    (h : deltaAddress c' i' = deltaAddress c i) : c' = c ∧ i' = i := by
  have hlog := log_deltaAddress hi'
  rw [h, log_deltaAddress hi] at hlog
  obtain rfl : c = c' := Nat.succ.inj hlog
  have hadd := deltaAddress_add_two c i'
  rw [h, deltaAddress_add_two] at hadd
  omega

theorem deltaAddress_le {c i : Nat} (hc : c ≤ 6) (hi : i < 2 ^ (c + 1)) : deltaAddress c i ≤ 253 := by
  have hpow : 2 ^ (c + 1) ≤ 2 ^ 7 := Nat.pow_le_pow_right (by decide) (by omega)
  have hadd := deltaAddress_add_two c i
  omega

/-- Every address up to 253 is one of the classes'. -/
theorem exists_deltaAddress_eq {a : Nat} (ha : a ≤ 253) :
    ∃ c i, c ≤ 6 ∧ i < 2 ^ (c + 1) ∧ deltaAddress c i = a := by
  have hpos : 1 ≤ Nat.log 2 (a + 2) := Nat.log_pos (by decide) (by omega)
  have hlt : Nat.log 2 (a + 2) < 8 := Nat.log_lt_of_lt_pow (by omega) (by omega)
  have hlow : 2 ^ Nat.log 2 (a + 2) ≤ a + 2 := Nat.pow_log_le_self 2 (by omega)
  have hhigh : a + 2 < 2 ^ (Nat.log 2 (a + 2) + 1) := Nat.lt_pow_succ_log_self (by decide) _
  obtain ⟨c, hc⟩ := Nat.exists_eq_add_of_le' hpos
  rw [hc] at hlt hlow hhigh
  rw [Nat.pow_succ 2 (c + 1)] at hhigh
  refine ⟨c, a + 2 - 2 ^ (c + 1), by omega, by omega, ?_⟩
  have hadd := deltaAddress_add_two c (a + 2 - 2 ^ (c + 1))
  omega

/-- Settles O33: the pixel takes the predictor's value (`execPixCopy_eq`). -/
theorem pixelCopy : Obligations.PixelCopy := by
  unfold Obligations.PixelCopy
  intro s pr k hp hpred
  exact ⟨_, execPixCopy_eq hp hpred, State.pixelSet_written hp, rfl, rfl⟩

/-- Settles O34: the seven classes are one operation (`residualWritten`), and the class and the index are found again
from the address (`exists_deltaAddress_eq`, `deltaAddress_inj`). -/
theorem pixelResidual : Obligations.PixelResidual := by
  unfold Obligations.PixelResidual
  refine ⟨fun s pr k hp hpred hdt hlen h2 => ?_, fun a => ⟨fun ha => ?_, ?_⟩⟩
  · have res {c : Nat} (hc : c ≤ 6) (i : BitVec (c + 1)) (h1 : s.bitsReady .bit1 (c + 1) = true) :=
      residualWritten hc i.isLt hp hpred (State.has_cons.mp hdt).1 hlen h2 h1
    exact ⟨res (c := 0) (by decide), res (c := 1) (by decide), res (c := 2) (by decide), res (c := 3) (by decide),
      res (c := 4) (by decide), res (c := 5) (by decide), res (c := 6) (by decide)⟩
  · obtain ⟨c, i, hc, hi, rfl⟩ := exists_deltaAddress_eq ha
    exact ⟨c, i, hc, hi, rfl, fun _ _ _ hi' => deltaAddress_inj hi hi'⟩
  · rintro ⟨c, i, hc, hi, rfl, -⟩
    exact deltaAddress_le hc hi

/-- Settles O35: the pixel takes the literal (`execPixLit_eq`), and no predictor is asked. -/
theorem pixelLiteral : Obligations.PixelLiteral := by
  unfold Obligations.PixelLiteral
  intro s pr k v hp h2 hl
  exact ⟨_, execPixLit_eq v hp h2 hl, State.pixelSet_written (s := s.literalRead) hp, rfl, rfl, rfl, rfl⟩

/-! ## The delta tables (42_a9ll_intra.md R160-R163) -/

section

variable {s : State}

theorem afterTable_eq (u : SeqUnit) (w h : Nat) :
    afterTable u w h = if u = .a9llInter then .mb else if w % 4 = 0 ∧ h % 4 = 0 then .tile else .partialFrame := by
  simp [afterTable, wholeTiles_iff]

/-- The state once the table is there (R162). -/
def State.tableSet (s : State) (dt : List Half) : State :=
  (State.mark { s with dt := dt } .dt).goto (afterTable s.seq.unit s.fw s.fh)

theorem State.tableDone_eq (dt : List Half) (hd : .dims ∈ s.written) : s.tableDone dt = .ok (s.tableSet dt) :=
  Act.run_eq (State.dims_ok hd) rfl

theorem State.tableSet_followed (dt : List Half) : TableFollowed s (s.tableSet dt) := by
  unfold TableFollowed
  rw [← afterTable_eq]
  rfl

theorem State.tableSet_has (dt : List Half) : (s.tableSet dt).has [.dt] = true :=
  State.has_cons.mpr ⟨State.mem_mark_self, rfl⟩

/-- Entry `j` of a dynamic table comes from pair `j + 1` (R161). -/
theorem dynamicTable_getD {signs : List Byte} {mags : List Half} (hs : signs.length = 512) (hm : mags.length = 512)
    {j : Nat} (hj : j < 511) :
    (dynamicTable signs mags).getD j 0 = dynamicEntry (signs.getD (j + 1) 0) (mags.getD (j + 1) 0) := by
  have hs' : j + 1 < signs.length := by omega
  have hm' : j + 1 < mags.length := by omega
  have hlen : j < (dynamicTable signs mags).length := by simp [dynamicTable, hs, hm, hj]
  rw [List.getD_eq_getElem _ _ hlen, List.getD_eq_getElem _ _ hs', List.getD_eq_getElem _ _ hm']
  simp [dynamicTable]

theorem dynamicEntry_eq (sign : Byte) (mag : Half) : dynamicEntry sign mag = if sign ≠ 0 then mag else -mag := by
  rw [dynamicEntry, ite_not]

theorem constTable_eq (cfg : Config) (version : Byte) :
    constTable cfg version =
      match cfg.deltaSelect with
        | .above last => if version.toNat ≤ last.toNat then cfg.delta0 else cfg.delta1
        | .oneOf versions => if version ∈ versions then cfg.delta1 else cfg.delta0 := by
  unfold constTable
  cases cfg.deltaSelect with
  | above last =>
    by_cases h : version.toNat ≤ last.toNat
    · simp [BitVec.lt_def, h, Nat.not_lt.mpr h]
    · simp [BitVec.lt_def, h, Nat.lt_of_not_le h]
  | oneOf versions => simp

theorem execDtab_eq {signs : List Byte} {mags : List Half} (hs : s.seq.stage = .table)
    (hwf : Instr.wf (.dtab signs mags) = true) (hab : .flagsAB ∈ s.written) (hd : .dims ∈ s.written)
    (hdyn : s.hdr.dynamicTable = true) (hb : s.bytesReady .tabc (512 + 1024) = true) :
    execDtab signs mags s =
      .next (State.tableSet { s with a9 := s.a9.after s.a9map.tabc 1536 } (dynamicTable signs mags)) := by
  have hsigns := State.skipBytes_eq rfl (State.bytesReady_mono (Nat.le_add_right 512 1024) hb)
  have hmags := State.skipBytes_eq rfl (State.bytesReady_tabc_after hb)
  rw [← ByteBank.after_after s.a9 s.a9map.tabc 512 1024]
  exact finish_next (Act.expect_eq (Bool.and_eq_true_iff.mpr ⟨decide_eq_true hs, hwf⟩)
    (Act.run_eq (State.needRegs_written (by simp [hab])) (Act.expect_eq hdyn
      (Act.run_eq hsigns (Act.run_eq hmags (State.tableDone_eq _ hd))))))

theorem execDtConst_eq (hs : s.seq.stage = .table) (hh : s.has [.flagsAB, .version] = true)
    (hd : .dims ∈ s.written) (hdyn : s.hdr.dynamicTable = false) :
    execDtConst s = .next (s.tableSet (constTable s.cfg s.hdr.version)) :=
  finish_next (Act.expect_eq (decide_eq_true hs) (Act.run_eq (State.needRegs_ok hh)
    (Act.expect_eq (congrArg not hdyn) (State.tableDone_eq _ hd))))

end

/-- Settles O36: the two tables entry by entry (`dynamicTable_getD`, `constTable_eq`), and what follows them
(`State.tableSet_followed`). -/
theorem deltaTables : Obligations.DeltaTables := by
  unfold Obligations.DeltaTables
  refine fun s hs => ⟨fun signs mags hsigns hmags hh hdyn hb => ?_, fun hh hdyn => ?_⟩
  · have hw := State.mem_of_has hh
    have hwf : Instr.wf (.dtab signs mags) = true := by simp [Instr.wf, hsigns, hmags]
    refine ⟨_, execDtab_eq hs hwf (hw _ (by simp)) (hw _ (by simp)) hdyn hb, dynamicTable_length hwf, fun j hj => ?_,
      rfl, State.tableSet_has _, State.tableSet_followed _, rfl⟩
    exact (dynamicTable_getD hsigns hmags hj).trans (dynamicEntry_eq _ _)
  · have hw := State.mem_of_has hh
    exact ⟨_, execDtConst_eq hs (by simp [State.has, hw]) (hw _ (by simp)) hdyn, constTable_eq _ _,
      State.tableSet_has _, State.tableSet_followed _, rfl⟩

/-- Settles O30: `Pred` is its own branch of the bounds test, and `INSIDE` is `inside_iff`. -/
theorem predInside : Obligations.PredInside := by
  unfold Obligations.PredInside
  refine ⟨fun s x y hd => ?_, fun _ _ _ _ _ _ => inside_iff⟩
  have hdims := State.dims_ok (State.has_cons.mp hd).1
  exact ⟨fun hx hw hy hh => Act.run_eq hdims (if_pos ⟨hx, hw, hy, hh⟩),
    fun hout => Act.run_eq hdims (if_neg fun ⟨hx, hw, hy, hh⟩ => by unfold State.fw State.fh at hout; omega)⟩

end Sys2Proof.Machine

namespace Sys2Proof.Machine

open Sys2Proof

/-! ## How a stopped rule ends -/

theorem Act.run_error {α β : Type} {a : Act α} {f : α → Act β} {e : Stop} (h : a = .error e) :
    (a >>= f) = .error e := by
  rw [h, Act.error_bind]

theorem finish_refused {s : State} {a : Act State} {r : Refusal} (h : a = .error (.refuse r)) :
    finish s a = .refused r :=
  h ▸ rfl

/-! ## The start of an intra frame (46_orchestrator.md R246, R248, 42_a9ll_intra.md R145, R163) -/

section

variable {s : State}

/-- The size is one that DISPATCH.INTRA takes: whole tiles, or any under a P19 other than REFUSE (R163). -/
def State.sizeTaken (s : State) : Prop := s.fw % 4 = 0 ∧ s.fh % 4 = 0 ∨ s.cfg.intraPartial ≠ .refuse

theorem State.sizeTaken_iff :
    s.sizeTaken ↔ (!wholeTiles s.fw s.fh && s.cfg.intraPartial == .refuse) = false := by
  simp only [State.sizeTaken, ← wholeTiles_iff, Bool.and_eq_false_iff, Bool.not_eq_false', beq_eq_false_iff_ne]

section

variable (hs : s.seq.stage = .dispatch) (hh : s.has [.flagsAB, .isFirst, .dims, .headerSize, .dataEnd] = true)
  (he : s.hdr.extraException = false) (ha : s.hdr.animated = true) (hfirst : s.hdr.isFirst = true)

include hh ha

/-- The dispatch of an animated frame reads whether it is the first one (46_orchestrator.md R259). -/
theorem State.dispatchFormat_animated : s.dispatchFormat = .ok s.branch := by
  have hw := State.mem_of_has hh
  have hneed : s.needRegs [.flagsAB] = .ok () := State.needRegs_written (by simp [hw])
  simp [State.dispatchFormat, hneed, ha, State.rd_ok (hw .isFirst (by simp)), State.branch]

include hs he hfirst

omit hs hh in
theorem State.branch_intra :
    s.branch = .dispatch false true true (s.hdr.encoderMode == s.cfg.w2Mode) s.hdr.depth := by
  simp [State.branch, he, ha, hfirst]

theorem State.expectBranch_intra : s.expectBranch .dispatchIntra = .ok () := by
  have hadmits : s.branch.admits .dispatchIntra = true := by rw [State.branch_intra he ha hfirst]; rfl
  simp [State.expectBranch, hs, State.dispatchFormat_animated hh ha, hadmits]

/-- A step runs the intra branch. -/
theorem step_dispatchIntra : step s = exec .dispatchIntra s := by
  have hformat : s.format = .ok s.branch := by simp [State.format, hs, State.dispatchFormat_animated hh ha]
  rw [State.branch_intra he ha hfirst] at hformat
  exact step_of_decoded hformat rfl rfl nofun

/-- A size that is taken: the reader set is built in the new unit, and the delta table is next. -/
theorem exec_dispatchIntra_eq (hsize : s.sizeTaken) :
    exec .dispatchIntra s =
      finish s (do let t ← (s.enterUnit .a9llIntra []).buildA9LL; .ok (t.goto .table)) := by
  have hdims := State.dims_ok (State.mem_of_has hh .dims (by simp))
  refine congrArg (finish s) (Act.run_eq (State.expectBranch_intra hs hh he ha hfirst) (Act.run_eq hdims ?_))
  exact if_neg (ne_true_of_eq_false (State.sizeTaken_iff.mp hsize))

/-- A size that is not taken is refused (R163). -/
theorem exec_dispatchIntra_refused (hsize : ¬s.sizeTaken) : exec .dispatchIntra s = .refused .intraPartial := by
  have hdims := State.dims_ok (State.mem_of_has hh .dims (by simp))
  have hguard : (!wholeTiles s.fw s.fh && s.cfg.intraPartial == .refuse) = true := by
    simpa [State.sizeTaken_iff] using hsize
  exact finish_refused (Act.run_eq (State.expectBranch_intra hs hh he ha hfirst) (Act.run_eq hdims (if_pos hguard)))

end

/-- A step at the frame procedure's control point runs it (R163). -/
theorem step_partialFrame (hs : s.seq.stage = .partialFrame) : step s = finish s s.partialFrame := by
  simp [step, hs]

section

variable {id : Nat} (hh : s.has [.dims, .rsA9LL, .dt, .dataEnd] = true) (hid : s.cfg.intraPartial = .impl id)

include hh hid

/-- P19's procedure gives the frame, and completion is next. -/
theorem State.partialFrame_eq {f : Nat → Nat → Half}
    (hf : Config.partialIntraFn id s.colourPlane s.hdr.dataEnd s.dt s.fw s.fh = some f) :
    s.partialFrame = .ok { s with frame := s.frame.fill 0 0 s.fw s.fh f, seq := s.seqComplete } := by
  have hw := State.mem_of_has hh
  have hdims : .dims ∈ s.written := hw _ (by simp)
  refine Act.run_eq (x := (s.fw, s.fh)) (State.dims_ok hdims) (Act.run_eq (State.needRegs_written (by simp [hw])) ?_)
  simp only [hid, hf]
  exact Act.run_eq (State.fillRect_ok hdims (Nat.zero_add _).le (Nat.zero_add _).le) rfl

/-- P19's procedure gives no frame. -/
theorem State.partialFrame_raises
    (hf : Config.partialIntraFn id s.colourPlane s.hdr.dataEnd s.dt s.fw s.fh = none) :
    s.partialFrame = .error (.raise .invalidData) := by
  have hw := State.mem_of_has hh
  refine Act.run_eq (x := (s.fw, s.fh)) (State.dims_ok (hw _ (by simp)))
    (Act.run_eq (State.needRegs_written (by simp [hw])) ?_)
  simp only [hid, hf]

end

end

/-- Settles O23: DISPATCH.INTRA is the construction of the reader set in the new unit, or a refusal
(`exec_dispatchIntra_eq`, `exec_dispatchIntra_refused`), and P19's procedure gives its frame or no frame. -/
theorem dispatchIntraStarts : Obligations.DispatchIntraStarts := by
  unfold Obligations.DispatchIntraStarts
  refine ⟨fun s hs hh he ha hfirst => ?_, fun s id hs hh hid => ⟨fun f hf => ?_, fun hf => ?_⟩⟩
  · have hregs : (s.enterUnit .a9llIntra []).has [.headerSize, .dataEnd] = true := by
      simp [State.has, State.mem_of_has hh]
    have hexec := exec_dispatchIntra_eq hs hh he ha hfirst
    refine ⟨fun hsize hl hok => ?_, fun hsize hbad => ?_, fun hpart hrefuse => ?_⟩
    · exact ⟨_, (hexec hsize).trans (finish_next (Act.run_eq (State.buildA9LL_ok hregs hl hok) rfl)),
        Pixels.at_nil, rfl, rfl, rfl, rfl, rfl, State.has_cons.mpr ⟨State.mem_mark_self, rfl⟩, rfl⟩
    · rw [hexec hsize]
      exact finish_raises (Act.run_error (State.buildA9LL_bad hregs hbad))
    · have hsize : ¬s.sizeTaken := by
        rintro (⟨hw, hh⟩ | hne)
        · exact hpart.elim (absurd hw) (absurd hh)
        · exact hne hrefuse
      have hrefused := exec_dispatchIntra_refused hs hh he ha hfirst hsize
      exact ⟨hrefused, (step_dispatchIntra hs hh he ha hfirst).trans hrefused⟩
  · refine ⟨_, (step_partialFrame hs).trans (finish_next (State.partialFrame_eq hh hid hf)),
      rectWritten_fill _ _ ((Nat.zero_add _).le.trans s.fw_lt.le) rfl fun c r _ _ => ?_, rfl, rfl⟩
    rw [Nat.zero_add, Nat.zero_add]
  · rw [step_partialFrame hs]
    exact finish_raises (State.partialFrame_raises hh hid hf)

end Sys2Proof.Machine

namespace Sys2Proof.Machine

open Sys2Proof

/-! ## What the A9LL inter symbols share (43_a9ll_inter.md R170-R191)

A symbol reads its bits from `BIT1`, may copy a square of the reference, and goes on in raster order. -/

section

variable {s t : State} {k n : Nat}

/-- A bit cursor that can deliver `k + n` bits can deliver the first `k` of them. -/
theorem State.bitsReady_left {id : BitCur} (h : s.bitsReady id (k + n) = true) : s.bitsReady id k = true := by
  obtain ⟨hplace, havail⟩ := Bool.and_eq_true_iff.mp h
  exact Bool.and_eq_true_iff.mpr
    ⟨hplace, decide_eq_true ((Nat.le_add_right k n).trans (of_decide_eq_true havail))⟩

/-- After the first `k` of `k + n` bits that `BIT1` can deliver, it can deliver the other `n`. -/
theorem State.bitsReady_bit1_after (h : s.bitsReady .bit1 (k + n) = true) :
    State.bitsReady { s with bit1 := s.bit1.after k } .bit1 n = true := by
  obtain ⟨hplace, havail⟩ := Bool.and_eq_true_iff.mp h
  refine Bool.and_eq_true_iff.mpr ⟨hplace, decide_eq_true ?_⟩
  have havail : k + n ≤ s.bit1.avail := of_decide_eq_true havail
  show n ≤ (s.bit1.after k).avail
  simp only [BitCursor.avail, BitCursor.after] at havail ⊢
  omega

/-- The state once a symbol has read its `k` bits of `BIT1`, with this frame store and this sequencer. -/
def State.blockSet (s : State) (f : Pixels) (k : Nat) (q : Seq) : State :=
  { s with frame := f, bit1 := s.bit1.after k, seq := q }

theorem State.blockSet_frame (f : Pixels) (k : Nat) (q : Seq) : (s.blockSet f k q).frame = f := rfl

/-- Nothing but the frame store, `BIT1` and the sequencer has changed. -/
theorem State.blockSet_rest (f : Pixels) (k : Nat) (q : Seq) :
    { s.blockSet f k q with frame := s.frame, bit1 := s.bit1, seq := s.seq } = s := rfl

theorem State.nextMb_blockSet (f : Pixels) (k : Nat) (hd : .dims ∈ s.written) :
    (s.blockSet f k s.seq).nextMb = .ok (s.blockSet f k s.seqNextMb) :=
  State.nextMb_ok hd

theorem State.nextSub_blockSet (f : Pixels) (k : Nat) (sub : SubKind) (hd : .dims ∈ s.written) :
    (s.blockSet f k s.seq).nextSub sub = .ok (s.blockSet f k (s.seqNextSub sub)) :=
  State.nextSub_ok sub hd

/-- The frame store once an `n x n` square at `(x0, y0)` is a copy of the reference at an offset. -/
def State.copied (s : State) (x0 y0 n : Nat) (dx dy : Int) : Pixels :=
  s.frame.fill x0 y0 n n fun x y => s.refAt (x + dx) (y + dy)

section

variable {x0 y0 : Nat} (hx : x0 + n ≤ s.fw)

include hx

/-- A copy after `k` bits (R172, R175, R182, R184). -/
theorem State.copyRef_blockSet {dx dy : Int} (k : Nat) (hd : .dims ∈ s.written) (hr : s.refUsable = true)
    (hy : y0 + n ≤ s.fh) (hi : inside s.fw s.fh (x0 + dx) (y0 + dy) n n = true) :
    State.copyRef { s with bit1 := s.bit1.after k } x0 y0 n dx dy =
      .ok (s.blockSet (s.copied x0 y0 n dx dy) k s.seq) :=
  State.copyRef_ok (s := { s with bit1 := s.bit1.after k }) hd hr hx hy hi

theorem State.copied_written {dx dy : Int} (ht : t.frame = s.copied x0 y0 n dx dy) :
    RectWritten s t x0 y0 n n fun c r =>
      s.ref.pix.at (((x0 + c : Nat) : Int) + dx).toNat (((y0 + r : Nat) : Int) + dy).toNat :=
  rectWritten_fill _ _ (hx.trans s.fw_lt.le) ht fun _ _ _ _ => rfl

/-- A copy at the same position. -/
theorem State.copied_zero_written (ht : t.frame = s.copied x0 y0 n 0 0) :
    RectWritten s t x0 y0 n n fun c r => s.ref.pix.at (x0 + c) (y0 + r) :=
  rectWritten_fill _ _ (hx.trans s.fw_lt.le) ht fun _ _ _ _ => by
    rw [State.refAt, Int.add_zero, Int.add_zero, Int.toNat_natCast, Int.toNat_natCast]

end

end

/-! ## The symbols of a full macroblock (43_a9ll_inter.md R171-R178) -/

section

variable {s : State} {n : Nat}

/-- `n` bits, then the macroblock copied at an offset that stays inside the reference (R172, R175). -/
theorem State.copyMb_eq {dx dy : Int} (hd : .dims ∈ s.written) (hm : s.mbFull = true) (hr : s.refUsable = true)
    (hb : s.bitsReady .bit1 n = true) (hi : inside s.fw s.fh (s.mbAt.1 + dx) (s.mbAt.2 + dy) 16 16 = true) :
    (do let t ← s.skipBits .bit1 n; let t ← t.copyRef s.mbAt.1 s.mbAt.2 16 dx dy; t.nextMb) =
      .ok (s.blockSet (s.copied s.mbAt.1 s.mbAt.2 16 dx dy) n s.seqNextMb) := by
  obtain ⟨hx, hy⟩ := fullMb_iff.mp hm
  exact Act.run_eq (State.skipBits_bit1_eq hb)
    (Act.run_eq (State.copyRef_blockSet hx n hd hr hy hi) (State.nextMb_blockSet _ n hd))

/-- The biases are subtracted in the integers, on the axes that P10 says (30_encoding.md R79). -/
theorem assembleMv_eq (axis : MvAxis) (a : BitVec 8) (b : BitVec 7) :
    assembleMv axis a b = (match axis with
      | .aIsX => { x := (a.toNat : Int) - 127, y := (b.toNat : Int) - 63 }
      | .aIsY => { x := (b.toNat : Int) - 63, y := (a.toNat : Int) - 127 }) := by
  cases axis <;> rfl

/-- The state once a vector has been assembled from the `n` bits read, and the sequencer has gone on to `q`. -/
def State.vectorSet (s : State) (mv : MotionVector) (n : Nat) (q : Seq) : State :=
  State.mark { s with mv := mv, bit1 := s.bit1.after n, seq := q } .mv

theorem State.vectorSet_has (mv : MotionVector) (n : Nat) (q : Seq) : (s.vectorSet mv n q).has [.mv] = true :=
  State.has_cons.mpr ⟨State.mem_mark_self, rfl⟩

/-- `SEQ` after a vector: the copy bit inside the frame, the next macroblock outside (R174, 60_exceptions.md R268). -/
def State.seqAfterVector (s : State) (mv : MotionVector) : Seq :=
  if inside s.fw s.fh (s.mbAt.1 + mv.x) (s.mbAt.2 + mv.y) 16 16 then { s.seq with stage := .mvCopy } else s.seqNextMb

theorem State.seqAfterVector_eq (mv : MotionVector) :
    s.seqAfterVector mv =
      if 0 ≤ (s.mbAt.1 : Int) + mv.x ∧ (s.mbAt.1 : Int) + mv.x + 16 ≤ s.fw ∧
          0 ≤ (s.mbAt.2 : Int) + mv.y ∧ (s.mbAt.2 : Int) + mv.y + 16 ≤ s.fh
        then { s.seq with stage := .mvCopy } else s.seqNextMb :=
  if_congr inside_iff rfl rfl

section

variable (hs : s.seq.stage = .mb) (hd : .dims ∈ s.written) (hm : s.mbFull = true)

include hs hd hm

theorem execMbMvZero_eq (hb : s.bitsReady .bit1 3 = true) :
    execMbMvZero s = .next (s.vectorSet { x := 0, y := 0 } 3 { s.seq with stage := .mvCopy }) :=
  finish_next (Act.run_eq (State.mbHere_ok hs hd hm) (Act.run_eq (State.skipBits_bit1_eq hb) rfl))

/-- The code and the two fields of `MB.MV` are three reads of one cursor (R174). -/
theorem execMbMv_eq (a : BitVec 8) (b : BitVec 7) (hb : s.bitsReady .bit1 18 = true) :
    execMbMv a b s = .next
      (s.vectorSet (assembleMv s.cfg.mvAxis a b) 18 (s.seqAfterVector (assembleMv s.cfg.mvAxis a b))) := by
  have hfields : State.bitsReady { s with bit1 := s.bit1.after 3 } .bit1 (8 + 7) = true :=
    State.bitsReady_bit1_after (k := 3) hb
  refine finish_next (Act.run_eq (State.mbHere_ok hs hd hm) (Act.run_eq (State.dims_ok hd)
    (Act.run_eq (State.skipBits_bit1_eq (State.bitsReady_left (k := 3) (n := 15) hb))
      (Act.run_eq (State.skipBits_bit1_eq (State.bitsReady_left hfields))
        (Act.run_eq (State.skipBits_bit1_eq (State.bitsReady_bit1_after hfields)) ?_)))))
  by_cases hin : inside s.fw s.fh (s.mbAt.1 + (assembleMv s.cfg.mvAxis a b).x)
      (s.mbAt.2 + (assembleMv s.cfg.mvAxis a b).y) 16 16 = true
  · rw [State.seqAfterVector, if_pos hin]
    exact if_pos hin
  · rw [State.seqAfterVector, if_neg hin]
    exact (if_neg hin).trans (State.nextMb_ok (State.mem_mark.mpr (.inr hd)))

end

/-- A gate that may be read is one check, then sub-block 0 (R178). -/
theorem execGate_eq {k : SubKind} (hs : s.seq.stage = .gate k) (hq : .qpGate ∈ s.written) :
    execGate s = finish s (do
      require s.hdr.qpGate .unsupported
      .ok { s with seq := { s.seq with s := 0, p := 0, stage := .sub k } }) := by
  unfold execGate
  rw [hs]
  exact congrArg (finish s) (Act.run_eq (State.rd_ok hq) rfl)

end

/-- Settles O37: both symbols are the copied macroblock (`State.copyMb_eq`), at the same position or at the vector. -/
theorem macroblockCopies : Obligations.MacroblockCopies := by
  unfold Obligations.MacroblockCopies
  intro s hd hm hr
  have hdims := (State.has_cons.mp hd).1
  obtain ⟨hx, hy⟩ := fullMb_iff.mp hm
  refine ⟨fun hs hb => ?_, fun hs hb hmv => ?_⟩
  · have hcopy := State.copyMb_eq hdims hm hr hb (inside_zero hx hy)
    exact ⟨_, finish_next (Act.run_eq (State.mbHere_ok hs hdims hm) hcopy),
      State.copied_zero_written hx (State.blockSet_frame ..), rfl, rfl, State.blockSet_rest ..⟩
  · obtain ⟨hw, hin⟩ := State.mvInside_iff.mp hmv
    have hcopy := State.copyMb_eq hdims hm hr hb hin
    exact ⟨_, finish_next (Act.run_eq (State.mvHere_ok hs hdims) (Act.run_eq (State.rd_ok hw) hcopy)),
      State.copied_written hx (State.blockSet_frame ..), rfl, rfl, State.blockSet_rest ..⟩

/-- Settles O38: the vector is set (`execMbMvZero_eq`, `execMbMv_eq`), and `INSIDE` chooses the next symbol. -/
theorem macroblockVectors : Obligations.MacroblockVectors := by
  unfold Obligations.MacroblockVectors
  intro s a b hs hd hm
  have hdims := (State.has_cons.mp hd).1
  exact ⟨fun hb => ⟨_, execMbMvZero_eq hs hdims hm hb, rfl, State.vectorSet_has .., rfl, rfl, rfl⟩,
    fun hb => ⟨_, execMbMv_eq hs hdims hm a b hb, assembleMv_eq .., State.vectorSet_has .., rfl,
      State.seqAfterVector_eq _, rfl⟩⟩

/-- Settles O39: each symbol stands at its macroblock and reads one bit; a set skip bit then raises. -/
theorem sequenceOpeners : Obligations.SequenceOpeners := by
  unfold Obligations.SequenceOpeners
  intro s hd hb
  have hdims := (State.has_cons.mp hd).1
  have hbit := State.skipBits_bit1_eq hb
  refine ⟨fun hs => ?_, fun hs hm => ?_, fun hs hm => ⟨?_, ?_⟩⟩
  · exact finish_next (Act.run_eq (State.mvHere_ok hs hdims) (Act.run_eq hbit rfl))
  · exact finish_next (Act.run_eq (State.mbHere_ok hs hdims hm) (Act.run_eq hbit rfl))
  · exact finish_next (Act.run_eq (State.mbHere_ok hs hdims hm) (Act.run_eq hbit rfl))
  · exact finish_raises (Act.run_eq (State.mbHere_ok hs hdims hm) (Act.run_eq hbit rfl))

/-- Settles O40: the gate is its one check (`execGate_eq`). -/
theorem qpGate : Obligations.QpGate := by
  unfold Obligations.QpGate
  intro s k hs hq
  have hgate := execGate_eq hs (State.has_cons.mp hq).1
  exact ⟨fun hopen => hgate.trans (finish_next (Act.require_eq hopen rfl)),
    fun hshut => (congrArg (Raises · s .unsupported) hgate).mpr (finish_raises (Act.require_raises hshut))⟩

/-! ## The symbols of a sub-block or cell (43_a9ll_inter.md R179-R188) -/

section

variable {s : State}

/-- A `SUB3` symbol that reads a mask, whatever its predictor (R179, R181, R183). -/
theorem State.maskedSub3_eq (pr : Predictor) (mask : Half) (hs : s.seq.stage = .sub .sub3)
    (hb : s.bitsReady .bit1 3 = true) (hm : s.bytesReady .maskc 2 = true) :
    s.maskedSub3 pr mask = .ok (s.opened pr (.within .sub3) mask 3) :=
  Act.expect_eq (decide_eq_true hs) (State.openMode_eq pr mask hb hm)

/-- A directional `SUB2` symbol, of either sequence that has them (R185, R187). -/
theorem State.dirSub2_eq {k : TileKind} (d : Dir) (mask : Half) (hk : s.sub2Here = .ok k)
    (hb : s.bitsReady .bit1 2 = true) (hm : s.bytesReady .maskc 2 = true) :
    s.dirSub2 d mask = .ok (s.opened (.dir d) k mask 2) :=
  Act.run_eq hk (State.openMode_eq (.dir d) mask hb hm)

section

variable (hs : s.seq.stage = .sub .sub3) (hd : .dims ∈ s.written) (hb : s.bitsReady .bit1 3 = true)

include hs hd hb

section

variable (hf : s.tileFits (.within .sub3) = true) (hr : s.refUsable = true)

include hf hr

theorem execS3CopyRef_eq :
    execS3CopyRef s = .next (s.blockSet (s.copied s.subAt.1 s.subAt.2 4 0 0) 3 (s.seqNextSub .sub3)) := by
  obtain ⟨hx, hy⟩ := State.tileFits_iff.mp hf
  exact finish_next (Act.expect_eq (decide_eq_true hs) (Act.run_eq (State.skipBits_bit1_eq hb)
    (Act.run_eq (State.origin_ok (.within .sub3) hd)
      (Act.run_eq (State.copyRef_blockSet hx 3 hd hr hy (inside_zero hx hy)) (State.nextSub_blockSet _ 3 .sub3 hd)))))

theorem execS3CopyMv_inside (hw : .mv ∈ s.written)
    (hin : inside s.fw s.fh (s.subAt.1 + s.mv.x) (s.subAt.2 + s.mv.y) 4 4 = true) :
    execS3CopyMv s =
      .next (s.blockSet (s.copied s.subAt.1 s.subAt.2 4 s.mv.x s.mv.y) 3 (s.seqNextSub .sub3)) := by
  obtain ⟨hx, hy⟩ := State.tileFits_iff.mp hf
  exact finish_next (Act.expect_eq (decide_eq_true hs) (Act.run_eq (State.skipBits_bit1_eq hb)
    (Act.run_eq (State.dims_ok hd) (Act.run_eq (State.origin_ok (.within .sub3) hd) (Act.run_eq (State.rd_ok hw)
      ((if_pos hin).trans
        (Act.run_eq (State.copyRef_blockSet hx 3 hd hr hy hin) (State.nextSub_blockSet _ 3 .sub3 hd))))))))

end

/-- A vector that leaves the frame skips the sub-block (R184). -/
theorem execS3CopyMv_outside (hw : .mv ∈ s.written)
    (hout : ¬inside s.fw s.fh (s.subAt.1 + s.mv.x) (s.subAt.2 + s.mv.y) 4 4 = true) :
    execS3CopyMv s = .next (s.blockSet s.frame 3 (s.seqNextSub .sub3)) :=
  finish_next (Act.expect_eq (decide_eq_true hs) (Act.run_eq (State.skipBits_bit1_eq hb)
    (Act.run_eq (State.dims_ok hd) (Act.run_eq (State.origin_ok (.within .sub3) hd) (Act.run_eq (State.rd_ok hw)
      ((if_neg hout).trans (State.nextSub_blockSet _ 3 .sub3 hd)))))))

end

/-- The visible columns and rows of the cell that `SEQ` names (R188). -/
def State.cellSize (s : State) : Nat × Nat := cellExtent s.fw s.fh s.subAt

/-- The frame store once that cell has taken these literals in raster order. -/
def State.literalFrame (s : State) (lits : List Half) : Pixels :=
  s.frame.fill s.subAt.1 s.subAt.2 s.cellSize.1 s.cellSize.2 fun x y =>
    lits.getD ((y - s.subAt.2) * s.cellSize.1 + (x - s.subAt.1)) 0

theorem State.literalFrame_written {t : State} {lits : List Half} (hv : cellVisible s.fw s.fh s.subAt = true)
    (ht : t.frame = s.literalFrame lits) :
    RectWritten s t s.subAt.1 s.subAt.2 s.cellSize.1 s.cellSize.2 fun c r => lits.getD (r * s.cellSize.1 + c) 0 :=
  rectWritten_fill _ _ ((cellExtent_le hv).1.trans s.fw_lt.le) ht fun _ _ _ _ => by
    rw [Nat.add_sub_cancel_left, Nat.add_sub_cancel_left]

theorem execEmbLitCell_eq {lits : List Half} (hs : s.seq.stage = .sub .cells) (hd : .dims ∈ s.written)
    (hv : cellVisible s.fw s.fh s.subAt = true) (hf : s.tileFits (.within .cells) = false)
    (hlen : lits.length = s.cellSize.1 * s.cellSize.2) (hb : s.bytesReady .edgelit (2 * lits.length) = true) :
    execEmbLitCell lits s = .next { s with
      frame := s.literalFrame lits
      a9 := s.a9.after s.a9map.edgelit (2 * lits.length)
      seq := s.seqNextSub .cells } := by
  obtain ⟨hx, hy⟩ := cellExtent_le hv
  exact finish_next (Act.run_eq (State.litCellHere_ok hs hd hv hf) (Act.expect_eq (beq_iff_eq.mpr hlen)
    (Act.run_eq (State.skipBytes_eq rfl hb) (Act.run_eq (State.fillRect_ok
      (s := { s with a9 := s.a9.after s.a9map.edgelit (2 * lits.length) }) hd hx hy) (State.nextSub_ok .cells hd)))))

end

/-- Settles O41: every masked mode is `State.opened` with its predictor (`State.maskedSub3_eq`, `State.dirSub2_eq`). -/
theorem subBlockModes : Obligations.SubBlockModes := by
  unfold Obligations.SubBlockModes
  refine fun s mask hm => ⟨fun hs hb => ?_, fun hs hb => ?_, fun hs hb hd hf => ?_⟩
  · have masked (pr : Predictor) := finish_next (s := s) (State.maskedSub3_eq pr mask hs hb hm)
    exact ⟨masked _, masked _, masked _, masked .ref, masked .refMv⟩
  · have dir (d : Dir) := finish_next (s := s) (State.dirSub2_eq d mask (State.sub2Here_sub2 hs) hb hm)
    exact ⟨dir _, dir _, dir _⟩
  · have hhere := State.sub2Here_cells hs (State.has_cons.mp hd).1 hf
    have dir (d : Dir) := finish_next (s := s) (State.dirSub2_eq d mask hhere hb hm)
    exact ⟨dir _, dir _, dir _⟩

/-- Settles O42: the sub-block is copied (`execS3CopyRef_eq`, `execS3CopyMv_inside`), or skipped when the vector leaves
the frame (`execS3CopyMv_outside`). -/
theorem subBlockCopies : Obligations.SubBlockCopies := by
  unfold Obligations.SubBlockCopies
  intro s hs hh hb hf hr
  obtain ⟨hd, hmv⟩ := State.has_cons.mp hh
  have hw := (State.has_cons.mp hmv).1
  have hx : s.subAt.1 + 4 ≤ s.fw := (State.tileFits_iff.mp hf).1
  refine ⟨⟨_, execS3CopyRef_eq hs hd hb hf hr, State.copied_zero_written hx (State.blockSet_frame ..), rfl, rfl,
    State.blockSet_rest ..⟩, ?_⟩
  by_cases hin : inside s.fw s.fh (s.subAt.1 + s.mv.x) (s.subAt.2 + s.mv.y) 4 4 = true
  · simp only [if_pos hin]
    exact ⟨_, execS3CopyMv_inside hs hd hb hf hr hw hin, State.copied_written hx (State.blockSet_frame ..), rfl, rfl,
      State.blockSet_rest ..⟩
  · simp only [if_neg hin]
    exact ⟨_, execS3CopyMv_outside hs hd hb hw hin, State.blockSet_frame .., rfl, rfl, State.blockSet_rest ..⟩

/-- Settles O43: the cell takes its literals (`execEmbLitCell_eq`), and raster order is `State.literalFrame`'s. -/
theorem literalCell : Obligations.LiteralCell := by
  unfold Obligations.LiteralCell
  rintro s lits w h hs hd hx hy hf rfl rfl hlen hb
  have hv : cellVisible s.fw s.fh s.subAt = true := cellVisible_iff.mpr ⟨hx, hy⟩
  rw [← hlen] at hb ⊢
  exact ⟨_, execEmbLitCell_eq hs (State.has_cons.mp hd).1 hv hf hlen hb, State.literalFrame_written hv rfl,
    rfl, rfl, rfl⟩

/-! ## The order of the sub-blocks (43_a9ll_inter.md R176, R177, R187) -/

section

variable {k : SubKind} {w h t sb : Nat}

/-- The sub-blocks of a full macroblock go one by one. -/
theorem subAfter_full (hk : k ≠ .cells) (hsb : sb ≤ 15) :
    subAfter k w h t sb = if sb = 15 then none else some (sb + 1) := by
  have hlast : subAfter k w h t sb = if sb + 1 < 16 then some (sb + 1) else none := by
    cases k with
    | cells => exact absurd rfl hk
    | sub3 => rfl
    | sub2 => rfl
  rw [hlast]
  by_cases heq : sb = 15
  · rw [if_neg (by omega), if_pos heq]
  · rw [if_pos (by omega), if_neg heq]

/-- Cell `i` comes after `sb` and is visible. -/
def laterCell (w h t sb i : Nat) : Bool := decide (sb < i) && cellVisible w h (subOrigin w t i)

theorem subAfter_cells : subAfter .cells w h t sb = (List.range 16).find? (laterCell w h t sb) := rfl

theorem not_laterCell_iff {i : Nat} :
    (!laterCell w h t sb i) = true ↔ (sb < i → cellVisible w h (subOrigin w t i) = false) := by
  simp [laterCell, or_iff_not_imp_left]

theorem laterCell_iff {i : Nat} :
    laterCell w h t sb i = true ↔ sb < i ∧ cellVisible w h (subOrigin w t i) = true := by
  simp [laterCell]

theorem subAfter_cells_eq_some {i : Nat} :
    subAfter .cells w h t sb = some i ↔
      sb < i ∧ i ≤ 15 ∧ cellVisible w h (subOrigin w t i) = true ∧
      ∀ j, sb < j → j < i → cellVisible w h (subOrigin w t j) = false := by
  simp only [subAfter_cells, List.find?_range_eq_some, laterCell_iff, not_laterCell_iff, List.mem_range,
    Nat.lt_succ_iff]
  constructor
  · rintro ⟨⟨hlt, hvis⟩, hle, hnone⟩
    exact ⟨hlt, hle, hvis, fun j hj hji => hnone j hji hj⟩
  · rintro ⟨hlt, hle, hvis, hnone⟩
    exact ⟨⟨hlt, hvis⟩, hle, fun j hji hj => hnone j hj hji⟩

theorem subAfter_cells_eq_none :
    subAfter .cells w h t sb = none ↔ ∀ j, sb < j → j ≤ 15 → cellVisible w h (subOrigin w t j) = false := by
  simp only [subAfter_cells, List.find?_range_eq_none, not_laterCell_iff, Nat.lt_succ_iff]
  exact forall_congr' fun j => ⟨fun hnone hj hle => hnone hle hj, fun hnone hle hj => hnone hj hle⟩

end

/-- Settles O44: a full macroblock counts on (`subAfter_full`), an edge one finds the first later visible cell
(`subAfter_cells_eq_some`, `subAfter_cells_eq_none`). -/
theorem subBlockOrder : Obligations.SubBlockOrder := by
  unfold Obligations.SubBlockOrder
  exact fun w h t sb hsb =>
    ⟨subAfter_full nofun hsb, subAfter_full nofun hsb, fun _ => subAfter_cells_eq_some, subAfter_cells_eq_none⟩

end Sys2Proof.Machine

namespace Sys2Proof.Machine

open Sys2Proof

/-! ## The emitted pixels (44_w2_depth1.md R207, R208)

`emit` takes the frame's pixels in raster order from `K` on.  `m` emissions whose values are `g 0`, `g 1`, … are one
operation, `State.drawn`, which drops what lies past the end of the frame. -/

/-- The pixel store once `m` pixels in raster order, from pixel `k` of an image `w` wide on, have taken `g 0`, `g 1`, …. -/
def Pixels.draw (f : Pixels) (w k : Nat) (g : Nat → Half) : Nat → Pixels
  | 0 => f
  | m + 1 => Store.set (f.draw w k g m) (pixKey ((k + m) % w) ((k + m) / w)) (g m)

/-- The state once `m` values have been emitted and the frame has taken them all. -/
def State.drawnAll (s : State) (m : Nat) (g : Nat → Half) : State :=
  { s with frame := s.frame.draw s.fw s.k g m, k := s.k + m }

/-- The state once `m` values have been emitted, of which the frame takes as many as it has pixels left. -/
def State.drawn (s : State) (m : Nat) (g : Nat → Half) : State := s.drawnAll (min m (s.n - s.k)) g

/-- The two halves of a pixel pair, again and again: the low half is the earlier pixel (R208). -/
def pairAt (q : Word) (j : Nat) : Half := if j % 2 = 0 then q.extractLsb' 0 16 else q.extractLsb' 16 16

theorem pairAt_zero (q : Word) : pairAt q 0 = q.extractLsb' 0 16 := rfl

theorem pairAt_one (q : Word) : pairAt q 1 = q.extractLsb' 16 16 := rfl

theorem pairAt_two_add (q : Word) (j : Nat) : pairAt q (2 + j) = pairAt q j :=
  if_congr (by rw [Nat.add_mod_left]) rfl rfl

section

variable {f : Pixels} {w k a b j m : Nat} {g : Nat → Half}

theorem Pixels.draw_succ :
    f.draw w k g (m + 1) = Store.set (f.draw w k g m) (pixKey ((k + m) % w) ((k + m) / w)) (g m) := rfl

/-- A drawn pixel is read back at its place in raster order, and every other pixel is as it was. -/
theorem Pixels.at_draw (hw : 0 < w) (hw' : w < 65536) :
    (f.draw w k g m).at (j % w) (j / w) =
      if k ≤ j ∧ j < k + m then g (j - k) else f.at (j % w) (j / w) := by
  have hcol (i : Nat) : i % w < 65536 := (Nat.mod_lt i hw).trans hw'
  have hplace (i : Nat) : j % w = i % w ∧ j / w = i / w ↔ j = i :=
    and_comm.trans (Nat.ext_div_mod_iff w j i).symm
  induction m with
  | zero => exact (if_neg (by omega)).symm
  | succ m ih =>
    rw [Pixels.draw_succ, Pixels.at_set _ (hcol _) (hcol _), ih]
    simp only [hplace]
    by_cases hj : j = k + m
    · rw [if_pos hj, if_pos (by omega), hj, Nat.add_sub_cancel_left]
    · rw [if_neg hj]
      exact if_congr (by omega) rfl rfl

theorem Pixels.draw_draw :
    (f.draw w k g a).draw w (k + a) (fun j => g (a + j)) b = f.draw w k g (a + b) := by
  induction b with
  | zero => rfl
  | succ b ih => rw [Pixels.draw_succ, ih, Nat.add_assoc, ← Nat.add_assoc a, Pixels.draw_succ]

end

section

variable {s : State} {a b j m : Nat} {g : Nat → Half}

/-- `K` stops at `N`. -/
theorem State.drawn_k (hk : s.k ≤ s.n) : (s.drawn m g).k = min s.n (s.k + m) := by
  show s.k + min m (s.n - s.k) = _
  omega

theorem State.drawnAll_drawnAll : (s.drawnAll a g).drawnAll b (fun j => g (a + j)) = s.drawnAll (a + b) g :=
  congrArg₂ (fun f k => { s with frame := f, k := k }) Pixels.draw_draw (Nat.add_assoc ..)

/-- Two emissions of which the frame takes equally much are the same. -/
theorem State.drawn_congr (h : min a (s.n - s.k) = min b (s.n - s.k)) : s.drawn a g = s.drawn b g :=
  congrArg (s.drawnAll · g) h

theorem State.drawn_of_room (h : m ≤ s.n - s.k) : s.drawn m g = s.drawnAll m g :=
  congrArg (s.drawnAll · g) (Nat.min_eq_left h)

/-- A full frame takes no pixel. -/
theorem State.drawn_of_full (h : s.n ≤ s.k) : s.drawn m g = s :=
  congrArg (s.drawnAll · g) (show min m (s.n - s.k) = 0 by omega)

theorem State.drawn_zero : s.drawn 0 g = s := State.drawn_of_room (Nat.zero_le _)

theorem State.drawn_drawn : (s.drawn a g).drawn b (fun j => g (a + j)) = s.drawn (a + b) g := by
  by_cases ha : a ≤ s.n - s.k
  · have htake : a + min b (s.n - (s.k + a)) = min (a + b) (s.n - s.k) := by omega
    rw [State.drawn_of_room ha]
    exact State.drawnAll_drawnAll.trans (congrArg (s.drawnAll · g) htake)
  · have hfull : s.n ≤ s.k + min a (s.n - s.k) := by omega
    exact (State.drawn_of_full (s := s.drawn a g) hfull).trans (State.drawn_congr (by omega))

/-- Pixel `j` of the frame after emissions from `K` on. -/
theorem State.drawn_at (hn : s.n = s.fw * s.fh) (hj : j < s.n) :
    (s.drawn m g).frame.at (j % s.fw) (j / s.fw) =
      if s.k ≤ j ∧ j < s.k + m then g (j - s.k) else s.frame.at (j % s.fw) (j / s.fw) := by
  have hw : 0 < s.fw := Nat.pos_of_mul_pos_right (Nat.zero_lt_of_lt (hn ▸ hj))
  refine (Pixels.at_draw hw s.fw_lt).trans (if_congr ?_ rfl rfl)
  omega

theorem State.drawn_at_new (hn : s.n = s.fw * s.fh) (hj : j < m) (hlt : s.k + j < s.n) :
    (s.drawn m g).frame.at ((s.k + j) % s.fw) ((s.k + j) / s.fw) = g j := by
  rw [State.drawn_at hn hlt, if_pos ⟨Nat.le_add_right _ _, Nat.add_lt_add_left hj _⟩, Nat.add_sub_cancel_left]

theorem State.drawn_at_old (hn : s.n = s.fw * s.fh) (hj : j < s.n) (hout : j < s.k ∨ s.k + m ≤ j) :
    (s.drawn m g).frame.at (j % s.fw) (j / s.fw) = s.frame.at (j % s.fw) (j / s.fw) := by
  rw [State.drawn_at hn hj, if_neg (by omega)]

section

variable (hd : .dims ∈ s.written) (hc : .pixelCount ∈ s.written) (hn : s.n = s.fw * s.fh)

include hd hc hn

/-- One emission draws one pixel, or none when the frame is full (R207). -/
theorem State.emit_eq (g : Nat → Half) : s.emit (g 0) = .ok (s.drawn 1 g) := by
  refine Act.run_eq (State.rd_ok hc) (Act.run_eq (State.rd_ok hc) (Act.run_eq (State.dims_ok hd) ?_))
  by_cases hk : s.k < s.n
  · have hw : 0 < s.fw := Nat.pos_of_mul_pos_right (Nat.zero_lt_of_lt (hn ▸ hk))
    rw [State.drawn_of_room (by omega)]
    exact (if_pos hk).trans
      (Act.run_eq (State.putPixel_ok hd (Nat.mod_lt _ hw) (Nat.div_lt_of_lt_mul (hn ▸ hk))) rfl)
  · rw [State.drawn_of_full (Nat.le_of_not_lt hk)]
    exact if_neg hk

/-- A pair draws its low half, then its high half (R208). -/
theorem State.emitPair_eq (q : Word) : s.emitPair q = .ok (s.drawn 2 (pairAt q)) := by
  show (s.emit (pairAt q 0) >>= fun t => t.emit (pairAt q 1)) = _
  refine Act.run_eq (State.emit_eq hd hc hn (pairAt q)) ?_
  have hsecond := State.emit_eq (s := s.drawn 1 (pairAt q)) hd hc hn fun j => pairAt q (1 + j)
  rwa [State.drawn_drawn] at hsecond

theorem State.emitPairs_eq (q : Word) (m : Nat) : State.emitPairs q m s = .ok (s.drawn (2 * m) (pairAt q)) := by
  induction m generalizing s with
  | zero => exact congrArg Except.ok State.drawn_zero.symm
  | succ m ih =>
    have hrest := (ih (s := s.drawn 2 (pairAt q)) hd hc hn).trans
      (congrArg Except.ok (congrArg (State.drawn _ _) (funext (pairAt_two_add q)).symm))
    rw [State.drawn_drawn, Nat.add_comm 2] at hrest
    exact Act.run_eq (State.emitPair_eq hd hc hn q) hrest

/-- A run that is cut off where the frame is full emits what the whole run would (R205, R207). -/
theorem State.emitPairs_capped (q : Word) (m : Nat) :
    State.emitPairs q (min m (s.n - s.k)) s = .ok (s.drawn (2 * m) (pairAt q)) :=
  (State.emitPairs_eq hd hc hn q _).trans (congrArg Except.ok (State.drawn_congr (by omega)))

end

/-! ## The main loop (44_w2_depth1.md R203, R210) -/

/-- `SEQ` where the main loop goes on: the frame is full, or `IDX` is empty, or an index value is next. -/
def State.seqNextW2 (s : State) : Seq :=
  if s.k = s.n ∨ s.idx.avail = 0 then s.seqComplete else { s.seq with stage := .w2Index }

theorem State.seqNextW2_done (h : s.k = s.n ∨ s.idx.avail = 0) : s.seqNextW2 = s.seqComplete := if_pos h

theorem State.seqNextW2_more (hk : s.k ≠ s.n) (hleft : s.idx.avail ≠ 0) :
    s.seqNextW2 = { s.seq with stage := .w2Index } :=
  if_neg (not_or.mpr ⟨hk, hleft⟩)

theorem State.w2Next_ok (hc : .pixelCount ∈ s.written) (hi : s.byteLive .idx) :
    s.w2Next = .ok { s with seq := s.seqNextW2 } := by
  obtain ⟨hcur, hholds, -⟩ := State.liveByte_of_ready (id := .idx) rfl hi
  refine Act.run_eq (State.rd_ok hc) (Act.run_eq (State.rd_ok hc) ?_)
  by_cases hk : s.k = s.n
  · rw [State.seqNextW2_done (.inl hk)]
    exact if_pos hk
  · refine (if_neg hk).trans (Act.run_eq (State.bytesLeft_ok hcur hholds) ?_)
    by_cases hleft : s.idx.avail = 0
    · rw [State.seqNextW2_done (.inr hleft)]
      exact if_pos hleft
    · rw [State.seqNextW2_more hk hleft]
      exact if_neg hleft

/-- The state once a symbol has emitted its pixels and the main loop has gone on. -/
def State.w2Done (s : State) (m : Nat) (g : Nat → Half) : State :=
  { s.drawn m g with seq := (s.drawn m g).seqNextW2 }

theorem State.drawn_w2Next (hc : .pixelCount ∈ s.written) (hi : s.byteLive .idx) :
    (s.drawn m g).w2Next = .ok (s.w2Done m g) :=
  State.w2Next_ok (s := s.drawn m g) hc hi

/-- The main loop goes on as R203 says, from any state that the symbol's reads left at the same symbol. -/
theorem State.w2Done_continues {u : State} (h : u.seq = s.seq) : W2Continues s (u.w2Done m g) := by
  unfold W2Continues State.seqComplete
  rw [← h]
  rfl

/-! ## The symbols (44_w2_depth1.md R202-R206) -/

theorem execValue_eq {v : Nat} (hs : s.seq.stage = .w2Index) (hb : s.bytesReady .idx (v / 255 + 1) = true) :
    execValue v s = .next ({ s with idx := s.idx.after (v / 255 + 1) }.goto (.w2Sym v)) :=
  finish_next (Act.expect_eq (decide_eq_true hs) (Act.run_eq (State.skipBytes_eq rfl hb) rfl))

/-- The state once the four bytes of a literal pair have been read. -/
def State.pairRead (s : State) : State := { s with lit := s.lit.after 4 }

/-- A literal pair writes `F`, `K`, `LIT` and `SEQ` only. -/
theorem State.pairRead_rest :
    { s.pairRead.w2Done m g with frame := s.frame, k := s.k, lit := s.lit, seq := s.seq } = s := by
  rfl

theorem execW2Lit_eq (q : Word) (hs : s.seq.stage = .w2Sym 0) (hd : .dims ∈ s.written)
    (hc : .pixelCount ∈ s.written) (hb : s.bytesReady .lit 4 = true) (hi : s.byteLive .idx)
    (hn : s.n = s.fw * s.fh) : execW2Lit q s = .next (s.pairRead.w2Done 2 (pairAt q)) :=
  finish_next (Act.expect_eq (decide_eq_true hs) (Act.run_eq (State.skipBytes_eq rfl hb)
    (Act.run_eq (State.emitPair_eq (s := s.pairRead) hd hc hn q)
      (State.drawn_w2Next (s := s.pairRead) hc hi))))

theorem State.bytesReady_mark {r : Reg} {id : ByteCur} (h : s.bytesReady id m = true) :
    (s.mark r).bytesReady id m = true := by
  obtain ⟨c, hc, hholds, havail⟩ := State.bytesReady_iff.mp h
  exact State.bytesReady_iff.mpr ⟨c, State.byteCur_mark hc, State.holds_mark hholds, havail⟩

/-- `IDX` and `LIT` after `m` bytes of a run length, read from the one that P13 says (R201). -/
def runMoved (r : RunFrom) (idx lit : ByteCursor) (m : Nat) : ByteCursor × ByteCursor :=
  match r with
  | .idx => (idx.after m, lit)
  | .lit => (idx, lit.after m)

def State.runCursors (s : State) (m : Nat) : ByteCursor × ByteCursor :=
  runMoved s.cfg.w2Layout.runFrom s.idx s.lit m

theorem State.skipBytes_run_eq (hb : s.bytesReady .run m = true) :
    s.skipBytes .run m = .ok { s with idx := (s.runCursors m).1, lit := (s.runCursors m).2 } := by
  refine (State.skipBytes_eq s.byteCur_run hb).trans ?_
  simp only [State.setByteCur, State.runCur, State.runCursors]
  cases s.cfg.w2Layout.runFrom with
  | idx => rfl
  | lit => rfl

/-- `IDX` keeps its region, whichever of the two moves. -/
theorem State.byteLive_runCursors (hi : s.byteLive .idx) :
    State.byteLive { s with idx := (s.runCursors m).1, lit := (s.runCursors m).2 } .idx := by
  have hmoved (r : RunFrom) :
      State.byteLive { s with idx := (runMoved r s.idx s.lit m).1, lit := (runMoved r s.idx s.lit m).2 } .idx := by
    cases r with
    | idx => exact (afterRead_idx s m).byteLive hi
    | lit => exact (afterRead_lit s m).byteLive hi
  exact hmoved _

/-- A table entry that ends inside the region is read (41_readers.md R139). -/
theorem ByteCursor.tableRead_ok {c : ByteCursor} {mem : Memory} (h : c.start + 4 * j + 4 ≤ c.stop) :
    c.tableRead mem j = .ok (Memory.u32 mem (c.start + 4 * j)) :=
  if_neg (Nat.not_lt.mpr h)

theorem ByteCursor.tableRead_raises {c : ByteCursor} {mem : Memory} (h : c.stop < c.start + 4 * j + 4) :
    c.tableRead mem j = .error (.raise .invalidData) :=
  if_pos h

/-- The state once the table entry has been looked up. -/
def State.entryRead (s : State) (q : Word) : State := State.mark { s with entry := q } .entry

/-- The state once the run length has been read too. -/
def State.runRead (s : State) (q : Word) (run : Nat) : State :=
  State.mark { s.entryRead q with
    idx := ((s.entryRead q).runCursors (run / 255 + 1)).1
    lit := ((s.entryRead q).runCursors (run / 255 + 1)).2
    run := run } .run

/-- A run writes `F`, `K`, `ENTRY`, `RUN`, its cursor and `SEQ` only. -/
theorem State.runRead_rest (q : Word) (run : Nat) :
    { (s.runRead q run).w2Done m g with
      frame := s.frame, k := s.k, entry := s.entry, run := s.run, idx := s.idx, lit := s.lit, seq := s.seq,
      written := s.written } = s := by
  simp only [State.w2Done, State.drawn, State.drawnAll, State.runRead, State.entryRead, State.mark]

section

variable {idx run : Nat} (hpos : 1 ≤ idx) (hs : s.seq.stage = .w2Sym idx) (hb : .rsW2D1 ∈ s.written)
  (hmem : s.holds s.tab.mem s.tab.stop = true)

include hpos hs hb hmem

/-- The table is looked up first, and its bounds decide whether anything else is read (R206). -/
theorem execW2Run_outside (hbad : s.tab.stop < s.tab.start + 4 * (idx - 1) + 4) :
    Raises (execW2Run idx run s) s .invalidData :=
  finish_raises (Act.expect_eq (Bool.and_eq_true_iff.mpr ⟨decide_eq_true hs, decide_eq_true hpos⟩)
    (Act.run_eq (State.needRegs_written (by simp [hb])) (Act.run_eq (State.within_ok hmem)
      (Act.run_error (ByteCursor.tableRead_raises hbad)))))

theorem execW2Run_eq (hok : s.tab.start + 4 * (idx - 1) + 4 ≤ s.tab.stop) (hd : .dims ∈ s.written)
    (hc : .pixelCount ∈ s.written) (hr : s.bytesReady .run (run / 255 + 1) = true) (hi : s.byteLive .idx)
    (hn : s.n = s.fw * s.fh) {q : Word} (hq : q = Memory.u32 (s.mem s.tab.mem) (s.tab.start + 4 * (idx - 1))) :
    execW2Run idx run s = .next ((s.runRead q run).w2Done (2 * run) (pairAt q)) := by
  have hentry : s.tab.tableRead (s.mem s.tab.mem) (idx - 1) = .ok q := hq ▸ ByteCursor.tableRead_ok hok
  have hskip := State.skipBytes_run_eq (s := s.entryRead q) (State.bytesReady_mark (s := { s with entry := q }) hr)
  have hlive : (s.runRead q run).byteLive .idx := State.byteLive_mark
    (State.byteLive_runCursors (s := s.entryRead q) (State.byteLive_mark (s := { s with entry := q }) hi))
  have hd' : .dims ∈ (s.runRead q run).written := State.mem_mark_of_mem (State.mem_mark_of_mem hd)
  have hc' : .pixelCount ∈ (s.runRead q run).written := State.mem_mark_of_mem (State.mem_mark_of_mem hc)
  exact finish_next (Act.expect_eq (Bool.and_eq_true_iff.mpr ⟨decide_eq_true hs, decide_eq_true hpos⟩)
    (Act.run_eq (State.needRegs_written (by simp [hb])) (Act.run_eq (State.within_ok hmem)
      (Act.run_eq hentry (Act.run_eq hskip (Act.run_eq (State.rd_ok hc') (Act.run_eq (State.rd_ok hc')
        (Act.run_eq (State.emitPairs_capped (s := s.runRead q run) hd' hc' hn q run)
          (State.drawn_w2Next hc' hlive)))))))))

end

end

/-- Settles O45: an index value is one read (`execValue_eq`); a literal pair draws its two halves (`execW2Lit_eq`,
`State.drawn_at_new`) and no other pixel (`State.drawn_at_old`). -/
theorem w2ValueLiteral : Obligations.W2ValueLiteral := by
  unfold Obligations.W2ValueLiteral
  refine fun s => ⟨fun v hs hb => execValue_eq hs hb, fun q hs hh hb hi hn hk => ?_⟩
  have hw := State.mem_of_has hh
  have half {j : Nat} (hj : j < 2) := State.drawn_at_new (s := s.pairRead) (g := pairAt q) hn hj
  exact ⟨_, execW2Lit_eq q hs (hw _ (by simp)) (hw _ (by simp)) hb hi hn,
    State.drawn_k (s := s.pairRead) (g := pairAt q) hk.le, (half (j := 0) Nat.two_pos hk).trans (pairAt_zero q),
    fun hk' => (half (j := 1) Nat.one_lt_two hk').trans (pairAt_one q),
    fun j hj hne hne' => State.drawn_at_old (s := s.pairRead) hn hj (show j < s.k ∨ s.k + 2 ≤ j by omega),
    rfl, State.w2Done_continues (u := s.pairRead) rfl, State.pairRead_rest⟩

/-- Settles O46: the table's bounds come first (`execW2Run_outside`); inside them the run draws its entry's halves again
and again (`execW2Run_eq`, `State.drawn_at_new`), and no other pixel (`State.drawn_at_old`). -/
theorem w2RunEmits : Obligations.W2RunEmits := by
  unfold Obligations.W2RunEmits
  intro s idx run q hpos hs hh hmem
  have hb := (State.has_cons.mp hh).1
  refine ⟨execW2Run_outside hpos hs hb hmem, fun hok hh hr hi hn hk hq => ?_⟩
  have hw := State.mem_of_has hh
  refine ⟨_, execW2Run_eq hpos hs hb hmem hok (hw _ (by simp)) (hw _ (by simp)) hr hi hn hq,
    State.drawn_k (s := s.runRead q run) (g := pairAt q) hk.le, rfl, rfl, fun j hj hlt => ?_,
    fun j hj hout => ?_, rfl, State.w2Done_continues (u := s.runRead q run) rfl, State.runRead_rest q run⟩
  · exact State.drawn_at_new (s := s.runRead q run) (g := pairAt q) hn hj hlt
  · exact State.drawn_at_old (s := s.runRead q run) hn hj hout

end Sys2Proof.Machine

namespace Sys2Proof.Machine

open Sys2Proof

/-! ## What the depth-2 symbols read (45_w2_depth2.md R222-R229)

A depth-2 symbol moves `D2B` and byte cursors of its bank, writes `IBUF` and moves `IPOS`: `State.stripSet` is the state
that it has then reached. -/

/-- The state with this `D2B`, this bank of byte cursors, this `IBUF` and this `IPOS`. -/
def State.stripSet (s : State) (b : BitCursor) (bank : ByteBank) (m : Memory) (p : Nat) : State :=
  { s with d2b := b, d2 := bank, ibuf := m, ipos := p }

section

variable {s : State} {d : D2Coding} {n : Nat}

/-- The state once `k` bits of `D2B` have been read. -/
def State.codeRead (s : State) (k : Nat) : State := { s with d2b := s.d2b.after k }

theorem State.skipBits_d2b_eq (h : s.bitsReady .d2b n = true) :
    s.skipBits .d2b n = .ok (s.codeRead n) :=
  State.skipBits_ok h

/-- A read of `D2B` leaves every byte cursor ready. -/
theorem State.bytesReady_codeRead {id : ByteCur} (k : Nat) (h : s.bytesReady id n = true) :
    (s.codeRead k).bytesReady id n = true :=
  h

section

variable (hd : s.cfg.d2 = some d)

include hd

/-- A depth-2 cursor is the physical one that P14 names (41_readers.md R144). -/
theorem State.setPhys_eq (c : ByteCursor) (which : D2Coding → Phys) :
    State.setByteCur.setPhys s c which = s.d2.set c (which d) := by
  delta State.setByteCur.setPhys
  rw [hd]

/-- A read of a depth-2 cursor, by the physical cursor that it is. -/
theorem State.skipBytes_d2_eq {id : ByteCur} {which : D2Coding → Phys}
    (hid : s.byteCur id = s.rd .rsW2D2 (s.d2.get (which d)))
    (hset : ∀ c, s.setByteCur c id = { s with d2 := State.setByteCur.setPhys s c which })
    (h : s.bytesReady id n = true) : s.skipBytes id n = .ok { s with d2 := s.d2.after (which d) n } := by
  rw [State.skipBytes_eq hid h, hset, State.setPhys_eq hd]
  rfl

theorem State.skipBytes_d2l_eq (h : s.bytesReady .d2l n = true) :
    s.skipBytes .d2l n = .ok { s with d2 := s.d2.after d.litCur n } := by
  obtain ⟨hcur, -⟩ := State.byteCur_d2 hd
  exact State.skipBytes_d2_eq hd (which := D2Coding.litCur) hcur (fun _ => rfl) h

theorem State.skipBytes_d2dist_eq (h : s.bytesReady .d2dist n = true) :
    s.skipBytes .d2dist n = .ok { s with d2 := s.d2.after d.distCur n } := by
  obtain ⟨-, hcur, -⟩ := State.byteCur_d2 hd
  exact State.skipBytes_d2_eq hd (which := D2Coding.distCur) hcur (fun _ => rfl) h

theorem State.skipBytes_d2key_eq (h : s.bytesReady .d2key n = true) :
    s.skipBytes .d2key n = .ok { s with d2 := s.d2.after d.keyCur n } := by
  obtain ⟨-, -, hcur, -⟩ := State.byteCur_d2 hd
  exact State.skipBytes_d2_eq hd (which := D2Coding.keyCur) hcur (fun _ => rfl) h

theorem State.skipBytes_d2mask_eq (h : s.bytesReady .d2mask n = true) :
    s.skipBytes .d2mask n = .ok { s with d2 := s.d2.after d.maskCur n } := by
  obtain ⟨-, -, -, hcur⟩ := State.byteCur_d2 hd
  exact State.skipBytes_d2_eq hd (which := D2Coding.maskCur) hcur (fun _ => rfl) h

/-- The symbol at which the sequencer stands finds P14. -/
theorem State.d2Here_eq {g : Stage} (hs : s.seq.stage = g) : s.d2Here g = .ok d :=
  Act.expect_eq (decide_eq_true hs) (State.coding_eq_ok.mpr hd)

end

/-! ## What the depth-2 symbols write -/

/-- The registers that a depth-2 symbol needs, one by one. -/
theorem State.has_four {a b c e : Reg} :
    s.has [a, b, c, e] = true ↔ a ∈ s.written ∧ b ∈ s.written ∧ c ∈ s.written ∧ e ∈ s.written := by
  simp only [State.has_cons, State.has_nil, and_true]

/-- `n` bytes from `a` on, each a copy of the byte `dist` before it, at rising addresses (R228). -/
def Memory.copyForward (m : Memory) (dist a : Nat) : Nat → Memory
  | 0 => m
  | n + 1 => Memory.copyForward (Store.set m a (Store.get m (a - dist))) dist (a + 1) n

theorem Memory.get_copyForward_other {m : Memory} {dist a b : Nat} (h : b < a ∨ a + n ≤ b) :
    Store.get (m.copyForward dist a n) b = Store.get m b := by
  induction n generalizing m a with
  | zero => rfl
  | succ n ih => exact (ih (by omega)).trans (Store.get_set_other _ (by omega))

/-- Every copied byte equals the one `dist` before it as it is after the copy, so a short distance repeats (R228). -/
theorem Memory.get_copyForward_same {m : Memory} {dist a j : Nat} (h1 : 1 ≤ dist) (h2 : dist ≤ a) (hj : j < n) :
    Store.get (m.copyForward dist a n) (a + j) = Store.get (m.copyForward dist a n) (a + j - dist) := by
  induction n generalizing m a j with
  | zero => exact absurd hj (Nat.not_lt_zero j)
  | succ n ih =>
    cases j with
    | zero =>
      have hsource : Store.get (m.copyForward dist a (n + 1)) (a - dist) = Store.get m (a - dist) :=
        Memory.get_copyForward_other (.inl (Nat.sub_lt (h1.trans h2) h1))
      exact ((Memory.get_copyForward_other (by omega)).trans (Store.get_set_same m a _)).trans hsource.symm
    | succ j =>
      have hnext := ih (m := Store.set m a (Store.get m (a - dist))) (a := a + 1) (by omega)
        (Nat.lt_of_succ_lt_succ hj)
      rwa [show a + 1 + j = a + (j + 1) by omega] at hnext

/-- Two copied bytes: the second is the first one again when `dist = 1` (R223, log 13). -/
theorem Memory.copyForward_two {m : Memory} {dist a : Nat} (h : dist ≤ a) :
    m.copyForward dist a 2 = Memory.setBytes m a
      [Store.get m (a - dist), if dist = 1 then Store.get m (a - 1) else Store.get m (a + 1 - dist)] := by
  refine congrArg (Store.set (Store.set m a (Store.get m (a - dist))) (a + 1)) ?_
  by_cases hone : dist = 1
  · rw [if_pos hone, hone]
    exact Store.get_set_same m a _
  · rw [if_neg hone]
    exact Store.get_set_other _ (by omega)

theorem ibufWritten_setBytes {t : State} {a : Nat} {bs : List Byte} (ht : t.ibuf = Memory.setBytes s.ibuf a bs) :
    IbufWritten s t a bs := by
  refine ⟨fun j hj => ?_, fun b hb => ?_⟩
  · rw [ht, Memory.get_setBytes, if_pos (by omega), Nat.add_sub_cancel_left]
  · rw [ht, Memory.get_setBytes, if_neg (by omega)]

theorem copiedBack_copyForward {t : State} (h1 : 1 ≤ s.dist) (h2 : s.dist ≤ s.ipos)
    (ht : t.ibuf = s.ibuf.copyForward s.dist s.ipos 16) : CopiedBack s t :=
  ⟨fun _ hj => ht ▸ Memory.get_copyForward_same h1 h2 hj, fun _ hb => ht ▸ Memory.get_copyForward_other hb⟩

section

variable (hi : .ibuf ∈ s.written) (hz : .size ∈ s.written)

include hi hz

theorem State.getIbuf_eq {a : Nat} (ha : a < s.size) : s.getIbuf a = .ok (Store.get s.ibuf a) :=
  Act.run_eq (State.rd_ok hi) (Act.run_eq (State.rd_ok hz) (if_pos ha))

theorem State.putIbuf_eq {a : Nat} {b : Byte} (ha : a < s.size) :
    s.putIbuf a b = .ok { s with ibuf := Store.set s.ibuf a b } :=
  Act.run_eq (State.rd_ok hi) (Act.run_eq (State.rd_ok hz) (if_pos ha))

theorem State.copyBack_eq {dist a : Nat} (hfit : a + n ≤ s.size) :
    s.copyBack dist a n = .ok { s with ibuf := s.ibuf.copyForward dist a n } := by
  induction n generalizing s a with
  | zero => rfl
  | succ n ih =>
    have hrest := ih (s := { s with ibuf := Store.set s.ibuf a (Store.get s.ibuf (a - dist)) }) hi hz
      (a := a + 1) (show a + 1 + n ≤ s.size by omega)
    exact Act.run_eq (State.getIbuf_eq hi hz (by omega)) (Act.run_eq (State.putIbuf_eq hi hz (by omega)) hrest)

end

section

variable (hp : .ipos ∈ s.written) (ht : .dist ∈ s.written)

include hp ht

/-- The distance check of R225. -/
theorem State.needSource_eq (h1 : 1 ≤ s.dist) (h2 : s.dist ≤ s.ipos) : s.needSource = .ok (s.ipos, s.dist) :=
  Act.run_eq (State.rd_ok hp) (Act.run_eq (State.rd_ok ht)
    (Act.require_eq (Bool.and_eq_true_iff.mpr ⟨decide_eq_true h1, decide_eq_true h2⟩) rfl))

theorem State.needSource_raises (h : s.dist = 0 ∨ s.ipos < s.dist) :
    s.needSource = .error (.raise .invalidData) := by
  refine Act.run_eq (State.rd_ok hp) (Act.run_eq (State.rd_ok ht) (Act.require_raises ?_))
  exact Bool.and_eq_false_iff.mpr (h.imp (fun hzero => decide_eq_false (by omega)) fun hfar =>
    decide_eq_false (Nat.not_le.mpr hfar))

theorem State.appendBack_eq (hi : .ibuf ∈ s.written) (hz : .size ∈ s.written) (h1 : 1 ≤ s.dist)
    (h2 : s.dist ≤ s.ipos) (hfit : s.ipos + n ≤ s.size) :
    s.appendBack n =
      .ok { s with ibuf := s.ibuf.copyForward s.dist s.ipos n, ipos := s.ipos + n } :=
  Act.run_eq (State.needSource_eq hp ht h1 h2) (Act.run_eq (State.copyBack_eq hi hz hfit) rfl)

theorem State.appendBack_raises (h : s.dist = 0 ∨ s.ipos < s.dist) :
    s.appendBack n = .error (.raise .invalidData) :=
  Act.run_error (State.needSource_raises hp ht h)

/-- P14's base is the operand of R223 where its bytes lie before the write position. -/
theorem State.xorBase_eq (hi : .ibuf ∈ s.written) (hz : .size ∈ s.written) (hfit : s.ipos < s.size)
    (hr : s.xorReady d.xorBase = true) : s.xorBase d = .ok (s.xorOperand d.xorBase) := by
  delta State.xorBase
  cases hb : d.xorBase with
  | const v => rfl
  | previous =>
    rw [hb] at hr
    have h2 : 2 ≤ s.ipos := of_decide_eq_true hr
    exact Act.run_eq (State.rd_ok hp) (Act.require_eq hr (Act.run_eq (State.getIbuf_eq hi hz (by omega))
      (Act.run_eq (State.getIbuf_eq hi hz (by omega)) rfl)))
  | atDistance =>
    rw [hb] at hr
    obtain ⟨h1, h2⟩ := Bool.and_eq_true_iff.mp hr
    have h1 : 1 ≤ s.dist := of_decide_eq_true h1
    have h2 : s.dist ≤ s.ipos := of_decide_eq_true h2
    refine Act.run_eq (State.needSource_eq hp ht h1 h2) (Act.run_eq (State.getIbuf_eq hi hz (by omega)) ?_)
    by_cases hone : s.dist = 1
    · refine (if_pos hone).trans (congrArg (fun second => Except.ok (le16 _ second)) ?_)
      rw [if_pos hone, hone]
    · exact (if_neg hone).trans (Act.run_eq (State.getIbuf_eq hi hz (by omega))
        (congrArg (fun second => Except.ok (le16 _ second)) (if_neg hone).symm))
  | impl id => exact Act.run_eq (State.rd_ok hp) (Act.run_eq (State.rd_ok ht) (Act.run_eq (State.rd_ok hi) rfl))

/-- A base that reaches before the buffer raises `INVALID_DATA` (log 2). -/
theorem State.xorBase_raises (hr : s.xorReady d.xorBase = false) : s.xorBase d = .error (.raise .invalidData) := by
  delta State.xorBase
  cases hb : d.xorBase with
  | const v =>
    rw [hb] at hr
    exact Bool.noConfusion (show true = false from hr)
  | previous =>
    rw [hb] at hr
    exact Act.run_eq (State.rd_ok hp) (Act.require_raises hr)
  | atDistance =>
    rw [hb] at hr
    exact Act.run_error (Act.run_eq (State.rd_ok hp) (Act.run_eq (State.rd_ok ht) (Act.require_raises hr)))
  | impl id =>
    rw [hb] at hr
    exact Bool.noConfusion (show true = false from hr)

end

/-! ## The nested pass (44_w2_depth1.md R200, 45_w2_depth2.md R220, R233) -/

/-- The state once the depth-1 reader set has been built over these regions, and `K` and `N` have been set. -/
def State.w2Opened (s : State) (mem : CurMem) (g : W2Regions) : State :=
  State.mark { State.mark { s with
      tab := byteCursorOver g.tab mem
      idx := byteCursorOver g.idx mem
      lit := byteCursorOver g.lit mem } .rsW2D1 with
    k := 0
    n := s.fw * s.fh } .pixelCount

section

variable {mem : CurMem} {b e : Nat} (hm : s.memHas mem = true)

include hm

theorem State.startW2D1_eq {g : W2Regions} (hd : .dims ∈ s.written) (he : g.idx.stop ≤ s.memLen mem)
    (hr : s.w2Regions mem b e = some g) (hg : w2Ok g b e = true) :
    s.startW2D1 mem b e = .ok { s.w2Opened mem g with seq := (s.w2Opened mem g).seqNextW2 } := by
  have hidx : (s.w2Opened mem g).byteLive .idx := State.byteLive_iff.mpr ⟨byteCursorOver g.idx mem,
    State.rd_ok (State.mem_mark_of_mem State.mem_mark_self),
    State.holds_mark (State.holds_mark (r := .rsW2D1) (Bool.and_eq_true_iff.mpr ⟨hm, decide_eq_true he⟩))⟩
  exact Act.run_eq (State.buildW2D1_ok hm hr hg) (Act.run_eq (State.dims_ok (State.mem_mark_of_mem hd))
    (State.w2Next_ok State.mem_mark_self hidx))

theorem State.startW2D1_raises (hr : ∀ g, s.w2Regions mem b e = some g → w2Ok g b e = false) :
    s.startW2D1 mem b e = .error (.raise .invalidData) :=
  Act.run_error (State.buildW2D1_bad hm hr)

end

/-- An image with pixels: the pass ends at once only where its index region is empty (44_w2_depth1.md R203). -/
theorem State.w2Opened_stage {mem : CurMem} {g : W2Regions} (hw : s.hdr.w ≠ 0) (hh : s.hdr.h ≠ 0) :
    (s.w2Opened mem g).seqNextW2.stage = if g.idx.stop - g.idx.start = 0 then .complete else .w2Index := by
  have hpos {v : Half} (hv : v ≠ 0) : 0 < v.toNat := Nat.pos_of_ne_zero fun h => hv (BitVec.eq_of_toNat_eq h)
  have hn : (s.w2Opened mem g).k ≠ (s.w2Opened mem g).n := (Nat.mul_pos (hpos hw) (hpos hh)).ne
  by_cases hleft : g.idx.stop - g.idx.start = 0
  · rw [if_pos hleft, State.seqNextW2_done (s := s.w2Opened mem g) (.inr hleft)]
    rfl
  · rw [if_neg hleft, State.seqNextW2_more hn hleft]

/-- Under the test configuration's P13 the nested pass has its header at the start of `IBUF` (41_readers.md R142). -/
theorem State.w2Regions_nested {e : Nat} (hc : s.cfg.w2Layout = Config.tc0.w2Layout) :
    s.w2Regions .ibuf 0 e = if e < 16 then none else some (w2Header s.ibuf 0 e false) := by
  delta State.w2Regions
  rw [hc]
  rfl

/-- The nested pass's regions lie one after another behind the 16-byte header. -/
theorem w2Header_nested (m : Memory) (e : Nat) {n il ll : Nat} (hn : n = (Memory.u32 m 0).toNat)
    (hil : il = (Memory.u32 m 4).toNat) (hll : ll = (Memory.u32 m 8).toNat) :
    w2Header m 0 e false =
      { tab := { start := 16, stop := 16 + 4 * n }
        idx := { start := 16 + 4 * n, stop := 16 + 4 * n + il }
        lit := { start := 16 + 4 * n + il, stop := 16 + 4 * n + il + ll }
        valid := decide (16 + 4 * n + il + ll ≤ e) } := by
  subst hn hil hll
  rfl

/-! ## Going on (45_w2_depth2.md R220) -/

theorem State.d2Next_more (hz : .size ∈ s.written) (hp : .ipos ∈ s.written) (h : s.ipos < s.size) :
    s.d2Next = .ok (s.goto (if s.ipos + 16 ≤ s.size then .d2Sel else .d2Tail)) := by
  refine Act.run_eq (State.rd_ok hz) (Act.run_eq (State.rd_ok hp) ?_)
  by_cases hstrip : s.ipos + 16 ≤ s.size
  · rw [if_pos hstrip, if_pos hstrip]
  · rw [if_neg hstrip, if_neg hstrip, if_pos h]

theorem State.d2Next_full (hz : .size ∈ s.written) (hp : .ipos ∈ s.written) (h : s.ipos = s.size) :
    s.d2Next = s.startW2D1 .ibuf 0 s.size :=
  Act.run_eq (State.rd_ok hz) (Act.run_eq (State.rd_ok hp)
    ((if_neg (by omega)).trans (if_neg (by omega))))

section

variable {b : BitCursor} {bank : ByteBank} {m : Memory} {p : Nat} (hi : .ibuf ∈ s.written)
  (hz : .size ∈ s.written) (hp : .ipos ∈ s.written)

include hi hz hp

/-- A symbol that has filled `IBUF` hands over to the nested pass. -/
theorem handsOver_stripSet (hfull : p = s.size) :
    HandsOver s (s.stripSet b bank m p) (finish s (s.stripSet b bank m p).d2Next) := by
  intro n il ll hh hw hht hcfg hn hil hll
  have hd := (State.has_cons.mp hh).1
  have hm : (s.stripSet b bank m p).memHas .ibuf = true :=
    State.has_cons.mpr ⟨hi, State.has_cons.mpr ⟨hz, rfl⟩⟩
  have hheader := w2Header_nested m s.size hn hil hll
  have hok : w2Ok (w2Header m 0 s.size false) 0 s.size = decide (16 + 4 * n + il + ll ≤ s.size) := by
    rw [w2Ok_header (Nat.le_refl 0), hheader]
  have hregions := State.w2Regions_nested (s := s.stripSet b bank m p) (e := s.size) hcfg
  rw [State.d2Next_full (s := s.stripSet b bank m p) hz hp hfull]
  refine ⟨fun hfit => ?_, fun hshort => ?_⟩
  · rw [if_neg (by omega)] at hregions
    have hopen := State.startW2D1_eq hm hd (hheader ▸ (Nat.le_add_right _ ll).trans hfit) hregions
      (hok.trans (decide_eq_true hfit))
    have hstage := State.w2Opened_stage (s := s.stripSet b bank m p) (mem := .ibuf)
      (g := w2Header m 0 s.size false) hw hht
    rw [hheader, Nat.add_sub_cancel_left] at hstage
    refine ⟨_, finish_next (hheader ▸ hopen), rfl, rfl, rfl, rfl, rfl, hstage, ?_, rfl⟩
    exact State.has_cons.mpr ⟨State.mem_mark_of_mem State.mem_mark_self,
      State.has_cons.mpr ⟨State.mem_mark_self, rfl⟩⟩
  · refine finish_raises (State.startW2D1_raises hm fun g hg => ?_)
    by_cases hroom : s.size < 16
    · exact absurd (hg.symm.trans (hregions.trans (if_pos hroom))) (Option.some_ne_none g)
    · obtain rfl := Option.some.inj (hg.symm.trans (hregions.trans (if_neg hroom)))
      exact hok.trans (decide_eq_false (Nat.not_le.mpr hshort))

end

/-! ## The openers and the distance (45_w2_depth2.md R222, R224, R226, R229) -/

section

variable (hd : s.cfg.d2 = some d)

include hd

theorem execD2Strip1_eq {q : Word} (hs : s.seq.stage = .d2Strip1) (hi : .ibuf ∈ s.written) (hz : .size ∈ s.written)
    (hfit : 16 ≤ s.size) (hb : s.bytesReady .d2l 4 = true) :
    execD2Strip1 q s = .next ((State.mark (s.stripSet s.d2b (s.d2.after d.litCur 4)
      (Memory.setBytes s.ibuf 0 (bytes32 q)) 4) .ipos).goto (.d2Dist .first 0)) := by
  have hwrite := State.putIbufBytes_ok (s := { s with d2 := s.d2.after d.litCur 4 }) (a := 0) (bs := bytes32 q) hi hz
    (.inr (Nat.le_trans (show 0 + 4 ≤ 16 by decide) hfit))
  exact finish_next (Act.run_eq (State.d2Here_eq hd hs) (Act.run_eq (State.skipBytes_d2l_eq hd hb)
    (Act.run_eq hwrite rfl)))

theorem execD2StripSel_eq {code : List Bool} {kind : StripKind} (hs : s.seq.stage = .d2Sel)
    (hk : d.selector.spells code (some kind) = true) (hb : s.bitsReady .d2b code.length = true) :
    execD2StripSel code kind s = .next ({ s with d2b := s.d2b.after code.length }.goto (.d2Body kind)) :=
  finish_next (Act.run_eq (State.d2Here_eq hd hs) (Act.expect_eq hk (Act.run_eq (State.skipBits_d2b_eq hb) rfl)))

theorem execD2Strip2_bits {mask : Byte} (hs : s.seq.stage = .d2Body .strip2) (hm : d.maskInBits = true)
    (hb : s.bitsReady .d2b 8 = true) :
    execD2Strip2 true mask s = .next ({ s with d2b := s.d2b.after 8 }.goto (.d2Dist (.later mask) 0)) :=
  finish_next (Act.run_eq (State.d2Here_eq hd hs) (Act.expect_eq (beq_iff_eq.mpr hm)
    (Act.run_eq (State.skipBits_d2b_eq hb) rfl)))

theorem execD2Strip2_byte {mask : Byte} (hs : s.seq.stage = .d2Body .strip2) (hm : d.maskInBits = false)
    (hb : s.bytesReady .d2mask 1 = true) :
    execD2Strip2 false mask s =
      .next ({ s with d2 := s.d2.after d.maskCur 1 }.goto (.d2Dist (.later mask) 0)) :=
  finish_next (Act.run_eq (State.d2Here_eq hd hs) (Act.expect_eq (beq_iff_eq.mpr hm)
    (Act.run_eq (State.skipBytes_d2mask_eq hd hb) rfl)))

section

variable {strip : Strip} {j : Nat} {flag : Bool} (hs : s.seq.stage = .d2Dist strip j)
  (hb : s.bitsReady .d2b 1 = true)

include hs hb

theorem execD2Dist_keep (hop : (if flag then d.distIfSet else d.distIfClear) = .keep) :
    execD2Dist flag .keep s = .next ({ s with d2b := s.d2b.after 1 }.goto (.d2Value strip j)) := by
  delta execD2Dist
  rw [hs]
  refine finish_next (Act.run_eq (State.coding_eq_ok.mpr hd) (Act.run_eq (State.skipBits_d2b_eq hb) ?_))
  rw [hop]
  rfl

theorem execD2Dist_byte {v : Byte} (hop : (if flag then d.distIfSet else d.distIfClear) = .byte)
    (hbytes : s.bytesReady .d2dist 1 = true) :
    execD2Dist flag (.byte v) s =
      .next ((State.mark { s with d2b := s.d2b.after 1, d2 := s.d2.after d.distCur 1, dist := v.toNat } .dist).goto
        (.d2Value strip j)) := by
  delta execD2Dist
  rw [hs]
  refine finish_next (Act.run_eq (State.coding_eq_ok.mpr hd) (Act.run_eq (State.skipBits_d2b_eq hb) ?_))
  rw [hop]
  exact Act.run_eq (State.skipBytes_d2dist_eq (s := s.codeRead 1) hd (State.bytesReady_codeRead _ hbytes)) rfl

theorem execD2Dist_half {v : Half} (hop : (if flag then d.distIfSet else d.distIfClear) = .half)
    (hbytes : s.bytesReady .d2dist 2 = true) :
    execD2Dist flag (.half v) s =
      .next ((State.mark { s with d2b := s.d2b.after 1, d2 := s.d2.after d.distCur 2, dist := v.toNat } .dist).goto
        (.d2Value strip j)) := by
  delta execD2Dist
  rw [hs]
  refine finish_next (Act.run_eq (State.coding_eq_ok.mpr hd) (Act.run_eq (State.skipBits_d2b_eq hb) ?_))
  rw [hop]
  exact Act.run_eq (State.skipBytes_d2dist_eq (s := s.codeRead 1) hd (State.bytesReady_codeRead _ hbytes)) rfl

end

/-! ## The values (45_w2_depth2.md R223, R225) -/

/-- The state once the code of a value and the bytes behind it have been read. -/
def State.valueRead (s : State) (code : List Bool) (bank : ByteBank) : State :=
  s.stripSet (s.d2b.after code.length) bank s.ibuf s.ipos

section

variable {strip : Strip} {j : Nat} {code : List Bool} (hs : s.seq.stage = .d2Value strip j)
  (hb : s.bitsReady .d2b code.length = true)

include hs hb

theorem exec_d2Value_backref_eq (hk : (kindCode d strip j).spells code .backref = true) :
    exec (.d2Value code .backref) s = finish s (do
      let t ← (s.codeRead code.length).appendBack 2
      t.valueDone strip j) := by
  delta exec execD2Value
  rw [hs]
  exact congrArg (finish s) (Act.run_eq (State.coding_eq_ok.mpr hd) (Act.run_eq (State.skipBits_d2b_eq hb)
    (Act.expect_eq hk rfl)))

theorem exec_d2Value_lit_eq {v : Half} (hk : (kindCode d strip j).spells code .lit = true)
    (hbytes : s.bytesReady .d2l 2 = true) :
    exec (.d2Value code (.lit v)) s = finish s (do
      let t ← (s.valueRead code (s.d2.after d.litCur 2)).appendIbuf (bytes16 v)
      t.valueDone strip j) := by
  delta exec execD2Value
  rw [hs]
  exact congrArg (finish s) (Act.run_eq (State.coding_eq_ok.mpr hd) (Act.run_eq (State.skipBits_d2b_eq hb)
    (Act.expect_eq hk (Act.run_eq
      (State.skipBytes_d2l_eq (s := s.codeRead code.length) hd (State.bytesReady_codeRead _ hbytes)) rfl))))

section

variable {key : Byte} (hk : (kindCode d strip j).spells code .xor = true) (hbytes : s.bytesReady .d2key 1 = true)

include hk hbytes

theorem exec_d2Value_xor_eq (hlt : key.toNat < d.xtab.length) :
    exec (.d2Value code (.xor key)) s = finish s (do
      let base ← (s.valueRead code (s.d2.after d.keyCur 1)).xorBase d
      let t ← (s.valueRead code (s.d2.after d.keyCur 1)).appendIbuf (bytes16 (base ^^^ d.xtab.getD key.toNat 0))
      t.valueDone strip j) := by
  have hentry : d.xtab[key.toNat]? = some (d.xtab.getD key.toNat 0) := by
    rw [List.getD_eq_getElem _ _ hlt]
    exact List.getElem?_eq_getElem hlt
  delta exec execD2Value
  rw [hs]
  refine congrArg (finish s) (Act.run_eq (State.coding_eq_ok.mpr hd) (Act.run_eq (State.skipBits_d2b_eq hb)
    (Act.expect_eq hk (Act.run_eq
      (State.skipBytes_d2key_eq (s := s.codeRead code.length) hd (State.bytesReady_codeRead _ hbytes)) ?_))))
  rw [hentry]
  rfl

/-- A key past P14's table (R223). -/
theorem exec_d2Value_xor_outside (hle : d.xtab.length ≤ key.toNat) :
    Raises (exec (.d2Value code (.xor key)) s) s .invalidData := by
  delta exec execD2Value
  rw [hs]
  refine finish_raises (Act.run_eq (State.coding_eq_ok.mpr hd) (Act.run_eq (State.skipBits_d2b_eq hb)
    (Act.expect_eq hk (Act.run_eq
      (State.skipBytes_d2key_eq (s := s.codeRead code.length) hd (State.bytesReady_codeRead _ hbytes)) ?_))))
  rw [List.getElem?_eq_none hle]
  rfl

end

end

end

/-- The state once the two bytes of a value stand at `IPOS`. -/
def State.valueSet (s : State) (code : List Bool) (bank : ByteBank) (bs : List Byte) : State :=
  s.stripSet (s.d2b.after code.length) bank (Memory.setBytes s.ibuf s.ipos bs) (s.ipos + 2)

section

variable {strip : Strip} {j : Nat} {code : List Bool} {bank : ByteBank} (hi : .ibuf ∈ s.written)
  (hz : .size ∈ s.written) (hp : .ipos ∈ s.written)

include hi hz hp

/-- Where a strip goes once a value has been written (R220, R222, R229). -/
theorem valueLeaves_valueSet {b0 b1 : Byte} :
    ValueLeaves s strip j code b0 b1 bank (finish s ((s.valueSet code bank [b0, b1]).valueDone strip j)) := by
  refine ⟨fun h => ?_, fun hlast hfull => ?_⟩
  · by_cases hj : j + 1 < stripValues strip
    · refine ⟨_, finish_next (if_pos hj), ⟨ibufWritten_setBytes rfl, rfl, rfl, ?_, rfl⟩, rfl⟩
      rw [if_pos hj]
      rfl
    · have hnext := State.d2Next_more (s := s.valueSet code bank [b0, b1]) hz hp (h.resolve_left hj)
      refine ⟨_, finish_next ((if_neg hj).trans hnext), ⟨ibufWritten_setBytes rfl, rfl, rfl, ?_, rfl⟩, rfl⟩
      rw [if_neg hj]
      rfl
  · refine ⟨s.valueSet code bank [b0, b1], ibufWritten_setBytes rfl, hfull, rfl, rfl, rfl, ?_⟩
    have hnext : (s.valueSet code bank [b0, b1]).valueDone strip j = (s.valueSet code bank [b0, b1]).d2Next :=
      if_neg hlast.not_lt
    rw [hnext]
    exact handsOver_stripSet hi hz hp hfull

variable (hd : s.cfg.d2 = some d) (hs : s.seq.stage = .d2Value strip j) (hb : s.bitsReady .d2b code.length = true)
  (hfit : s.ipos + 2 ≤ s.size)

include hd hs hb hfit

omit hd hs hb in
theorem State.appendValue_eq (v : Half) :
    (s.valueRead code bank).appendIbuf (bytes16 v) = .ok (s.valueSet code bank (bytes16 v)) :=
  State.appendIbuf_ok (s := s.valueRead code bank) hi hz hp hfit

theorem exec_d2Value_backref (hk : (kindCode d strip j).spells code .backref = true) (ht : .dist ∈ s.written)
    (h1 : 1 ≤ s.dist) (h2 : s.dist ≤ s.ipos) :
    ValueLeaves s strip j code (Store.get s.ibuf (s.ipos - s.dist))
      (if s.dist = 1 then Store.get s.ibuf (s.ipos - 1) else Store.get s.ibuf (s.ipos + 1 - s.dist)) s.d2
      (exec (.d2Value code .backref) s) := by
  have hcopy : (s.codeRead code.length).appendBack 2 = .ok (s.valueSet code s.d2 [Store.get s.ibuf (s.ipos - s.dist),
      if s.dist = 1 then Store.get s.ibuf (s.ipos - 1) else Store.get s.ibuf (s.ipos + 1 - s.dist)]) :=
    (State.appendBack_eq (s := s.codeRead code.length) hp ht hi hz h1 h2 hfit).trans
      (congrArg (fun m => Except.ok (s.stripSet (s.d2b.after code.length) s.d2 m (s.ipos + 2)))
        (Memory.copyForward_two h2))
  rw [exec_d2Value_backref_eq hd hs hb hk, hcopy, Act.ok_bind]
  exact valueLeaves_valueSet hi hz hp

theorem exec_d2Value_lit {v : Half} (hk : (kindCode d strip j).spells code .lit = true)
    (hbytes : s.bytesReady .d2l 2 = true) :
    ValueLeaves s strip j code (v.extractLsb' 0 8) (v.extractLsb' 8 8) (s.d2.after d.litCur 2)
      (exec (.d2Value code (.lit v)) s) := by
  rw [exec_d2Value_lit_eq hd hs hb hk hbytes, State.appendValue_eq hi hz hp hfit]
  exact valueLeaves_valueSet hi hz hp

section

variable {key : Byte} (hk : (kindCode d strip j).spells code .xor = true) (hbytes : s.bytesReady .d2key 1 = true)
  (ht : .dist ∈ s.written)

include hk hbytes ht

theorem exec_d2Value_xor {base : Half} (hbase : base = s.xorOperand d.xorBase) (hlt : key.toNat < d.xtab.length)
    (hr : s.xorReady d.xorBase = true) :
    ValueLeaves s strip j code ((base ^^^ d.xtab.getD key.toNat 0).extractLsb' 0 8)
      ((base ^^^ d.xtab.getD key.toNat 0).extractLsb' 8 8) (s.d2.after d.keyCur 1)
      (exec (.d2Value code (.xor key)) s) := by
  have hxor : (s.valueRead code (s.d2.after d.keyCur 1)).xorBase d = .ok base :=
    hbase ▸ State.xorBase_eq (s := s.valueRead code (s.d2.after d.keyCur 1)) hp ht hi hz (Nat.lt_of_succ_lt hfit) hr
  rw [exec_d2Value_xor_eq hd hs hb hk hbytes hlt, hxor, Act.ok_bind,
    State.appendValue_eq hi hz hp hfit]
  exact valueLeaves_valueSet hi hz hp

omit hi hz hfit in
theorem exec_d2Value_xor_raises (hbad : d.xtab.length ≤ key.toNat ∨ s.xorReady d.xorBase = false) :
    Raises (exec (.d2Value code (.xor key)) s) s .invalidData := by
  by_cases hle : d.xtab.length ≤ key.toNat
  · exact exec_d2Value_xor_outside hd hs hb hk hbytes hle
  · rw [exec_d2Value_xor_eq hd hs hb hk hbytes (Nat.not_le.mp hle)]
    exact finish_raises (Act.run_error (State.xorBase_raises (s := s.valueRead code (s.d2.after d.keyCur 1)) hp ht
      (hbad.resolve_left hle)))

end

end

/-! ## The later strips and the tail (45_w2_depth2.md R227, R228, R231) -/

section

variable {bytes : List Byte} (hd : s.cfg.d2 = some d) (hi : .ibuf ∈ s.written) (hz : .size ∈ s.written)
  (hp : .ipos ∈ s.written)

include hd hi hz hp

/-- Literal bytes appended from the strip cursor, then the next strip. -/
theorem State.literalBytes_eq (hb : s.bytesReady .d2l bytes.length = true) (hfit : s.ipos + bytes.length ≤ s.size) :
    (do let t ← s.skipBytes .d2l bytes.length; let u ← t.appendIbuf bytes; u.d2Next) =
      (s.stripSet s.d2b (s.d2.after d.litCur bytes.length) (Memory.setBytes s.ibuf s.ipos bytes)
        (s.ipos + bytes.length)).d2Next :=
  Act.run_eq (State.skipBytes_d2l_eq hd hb) (Act.run_eq
    (State.appendIbuf_ok (s := { s with d2 := s.d2.after d.litCur bytes.length }) hi hz hp hfit) rfl)

theorem execD2Verb_eq (hs : s.seq.stage = .d2Body .verb) (hlen : bytes.length = 16)
    (hb : s.bytesReady .d2l 16 = true) (hfit : s.ipos + 16 ≤ s.size) :
    execD2Verb bytes s = finish s (s.stripSet s.d2b (s.d2.after d.litCur 16) (Memory.setBytes s.ibuf s.ipos bytes)
      (s.ipos + 16)).d2Next := by
  have hrest := State.literalBytes_eq (bytes := bytes) hd hi hz hp (hlen ▸ hb) (hlen ▸ hfit)
  rw [hlen] at hrest
  exact congrArg (finish s) (Act.run_eq (State.d2Here_eq hd hs) (Act.expect_eq (beq_iff_eq.mpr hlen) hrest))

theorem execD2Tail_eq (hs : s.seq.stage = .d2Tail) (hlt : s.ipos < s.size) (hlen : bytes.length = s.size - s.ipos)
    (hmax : bytes.length ≤ 15) (hb : s.bytesReady .d2l bytes.length = true) :
    execD2Tail bytes s = finish s (s.stripSet s.d2b (s.d2.after d.litCur bytes.length)
      (Memory.setBytes s.ibuf s.ipos bytes) (s.ipos + bytes.length)).d2Next := by
  have hwf : (bytes.length == s.size - s.ipos && Instr.wf (.d2Tail bytes)) = true :=
    Bool.and_eq_true_iff.mpr ⟨beq_iff_eq.mpr hlen,
      Bool.and_eq_true_iff.mpr ⟨decide_eq_true (by omega), decide_eq_true hmax⟩⟩
  exact congrArg (finish s) (Act.run_eq (State.d2Here_eq hd hs) (Act.run_eq (State.rd_ok hz)
    (Act.run_eq (State.rd_ok hp) (Act.expect_eq hwf (State.literalBytes_eq hd hi hz hp hb (by omega))))))

theorem execD2Back_eq (hs : s.seq.stage = .d2Body .back) (ht : .dist ∈ s.written) (h1 : 1 ≤ s.dist)
    (h2 : s.dist ≤ s.ipos) (hfit : s.ipos + 16 ≤ s.size) :
    execD2Back s = finish s (s.stripSet s.d2b s.d2 (s.ibuf.copyForward s.dist s.ipos 16) (s.ipos + 16)).d2Next :=
  congrArg (finish s) (Act.run_eq (State.d2Here_eq hd hs)
    (Act.run_eq (State.appendBack_eq hp ht hi hz h1 h2 hfit) rfl))

end

end

/-- Settles O47: each opener by its own equation (`execD2Strip1_eq`, `execD2StripSel_eq`, `execD2Strip2_bits`,
`execD2Strip2_byte`). -/
theorem depthTwoOpeners : Obligations.DepthTwoOpeners := by
  unfold Obligations.DepthTwoOpeners
  refine fun s d hd => ⟨fun q hs hh hfit hb => ?_, fun code kind hs hk hb => execD2StripSel_eq hd hs hk hb,
    fun mask hs => ⟨execD2Strip2_bits hd hs, execD2Strip2_byte hd hs⟩⟩
  obtain ⟨hi, hz⟩ := State.has_cons.mp hh
  exact ⟨_, execD2Strip1_eq hd hs hi (State.has_cons.mp hz).1 hfit hb, ibufWritten_setBytes rfl, rfl, rfl, rfl,
    rfl⟩

/-- Settles O48: one equation for each of the three updates (`execD2Dist_keep`, `execD2Dist_byte`,
`execD2Dist_half`). -/
theorem distanceUpdate : Obligations.DistanceUpdate := by
  unfold Obligations.DistanceUpdate
  exact fun s d strip j flag hd hs hb =>
    ⟨execD2Dist_keep hd hs hb, fun _ => execD2Dist_byte hd hs hb, fun _ => execD2Dist_half hd hs hb⟩

/-- Settles O49: every kind of value ends in two bytes at `IPOS` (`exec_d2Value_backref`, `exec_d2Value_lit`,
`exec_d2Value_xor`), or in the error of its source (`State.appendBack_raises`) or of its key or base
(`exec_d2Value_xor_raises`). -/
theorem depthTwoValues : Obligations.DepthTwoValues := by
  unfold Obligations.DepthTwoValues
  intro s d strip j code hd hs hh hb hfit
  obtain ⟨hi, hz, hp, ht⟩ := State.has_four.mp hh
  refine ⟨fun hk => ⟨exec_d2Value_backref hi hz hp hd hs hb hfit hk ht, fun hbad => ?_⟩,
    fun v => exec_d2Value_lit hi hz hp hd hs hb hfit, fun key base hk hbytes hbase =>
      ⟨exec_d2Value_xor hi hz hp hd hs hb hfit hk hbytes ht hbase,
        exec_d2Value_xor_raises hp hd hs hb hk hbytes ht⟩⟩
  rw [exec_d2Value_backref_eq hd hs hb hk]
  exact finish_raises (Act.run_error (State.appendBack_raises (s := s.codeRead code.length) hp ht hbad))

/-- Settles O50: both strips are one write of `IBUF` that goes on or hands over (`execD2Verb_eq`, `execD2Back_eq`,
`State.d2Next_more`, `handsOver_stripSet`). -/
theorem laterStrips : Obligations.LaterStrips := by
  unfold Obligations.LaterStrips
  intro s d hd hh hfit
  obtain ⟨hi, hz, hp, ht⟩ := State.has_four.mp hh
  have goesOn (bank : ByteBank) (m : Memory) := State.d2Next_more (s := s.stripSet s.d2b bank m (s.ipos + 16)) hz hp
  refine ⟨fun bytes hs hlen hb => ?_, fun hs => ⟨fun h1 h2 => ?_, fun hbad => ?_⟩⟩
  · have hexec : exec (.d2Verb bytes) s = _ := execD2Verb_eq hd hi hz hp hs hlen hb hfit
    rw [hexec]
    exact ⟨fun hlt => ⟨_, finish_next (goesOn _ _ hlt), ibufWritten_setBytes rfl, rfl, rfl, rfl, rfl⟩,
      fun hfull => ⟨s.stripSet s.d2b _ _ _, ibufWritten_setBytes rfl, hfull, rfl, rfl,
        handsOver_stripSet hi hz hp hfull⟩⟩
  · have hexec : exec .d2Back s = _ := execD2Back_eq hd hi hz hp hs ht h1 h2 hfit
    generalize hm : s.ibuf.copyForward s.dist s.ipos 16 = m at hexec
    rw [hexec]
    exact ⟨fun hlt => ⟨_, finish_next (goesOn _ _ hlt), copiedBack_copyForward h1 h2 hm.symm, rfl, rfl, rfl⟩,
      fun hfull => ⟨s.stripSet s.d2b s.d2 _ _, copiedBack_copyForward h1 h2 hm.symm, hfull, rfl,
        handsOver_stripSet hi hz hp hfull⟩⟩
  · exact finish_raises (Act.run_eq (State.d2Here_eq hd hs) (Act.run_error (State.appendBack_raises hp ht hbad)))

/-- Settles O51: the tail fills `IBUF` (`execD2Tail_eq`), and the nested pass starts (`handsOver_stripSet`). -/
theorem tailAndNestedPass : Obligations.TailAndNestedPass := by
  unfold Obligations.TailAndNestedPass
  intro s d bytes m n il ll hd hs hh hlt hlen hmax hb hwd hht hcfg hm hn hil hll
  obtain ⟨hi, hz, hp, hdims⟩ := State.has_four.mp hh
  have hexec : exec (.d2Tail bytes) s = _ := execD2Tail_eq hd hi hz hp hs hlt hlen hmax hb
  have hfull : s.ipos + bytes.length = s.size := by omega
  rw [hfull, ← hm] at hexec
  rw [hexec]
  have hover := handsOver_stripSet (b := s.d2b) (bank := s.d2.after d.litCur bytes.length) (m := m) hi hz hp rfl
  obtain ⟨hstart, hraise⟩ := hover n il ll (State.has_cons.mpr ⟨hdims, rfl⟩) hwd hht hcfg hn hil hll
  refine ⟨fun hfits => ?_, hraise⟩
  obtain ⟨t, ho, hk, hcount, htab, hidx, hlit, hstage, -, hrest⟩ := hstart hfits
  have hibuf : t.ibuf = m := congrArg State.ibuf hrest
  exact ⟨t, ho, ibufWritten_setBytes (hibuf.trans hm), hibuf, congrArg State.ipos hrest, congrArg State.d2 hrest, hk,
    hcount, htab, hidx, hlit, hstage,
    congrArg (fun u : State => { u with ibuf := s.ibuf, ipos := s.ipos, d2 := s.d2 }) hrest⟩

end Sys2Proof.Machine

namespace Sys2Proof.Machine

open Sys2Proof

/-! ## The host's command (46_orchestrator.md R241, R242, R245) -/

section

variable {s : State} {packet : List Byte} {stride cap : Nat}

/-- The packet is stored byte for byte (20_memory.md R50). -/
theorem packetMemory_get (packet : List Byte) (a : Nat) : Store.get (packetMemory packet) a = packet.getD a 0 := by
  unfold packetMemory
  rw [Memory.get_setBytes]
  by_cases ha : a < packet.length
  · rw [if_pos (by omega), Nat.sub_zero]
  · rw [if_neg (by omega), Store.get_nil, List.getD_eq_default _ _ (Nat.not_lt.mp ha)]

theorem execDecode_busy (h : s.status.phase = .busy) : execDecode packet stride cap s = .refused .busy :=
  finish_refused (if_pos h)

theorem execDecode_tooLong (h : s.status.phase ≠ .busy) (hlen : s.cfg.maxPacket < packet.length) :
    execDecode packet stride cap s = .refused .packetTooLong :=
  finish_refused ((if_neg h).trans (if_pos hlen))

/-- The state in which a DECODE starts. -/
def State.decodeStarted (s : State) (packet : List Byte) (stride cap : Nat) : State :=
  { s with
    status := { s.status with phase := .busy }
    seq := { unit := .hdr, t := 0, s := 0, p := 0, stage := .hdr .len }
    written := [], pkt := packetMemory packet, len := packet.length, stride := stride, cap := cap }

theorem execDecode_eq (h : s.status.phase ≠ .busy) (hlen : packet.length ≤ s.cfg.maxPacket) :
    execDecode packet stride cap s = .next (s.decodeStarted packet stride cap) :=
  finish_next ((if_neg h).trans (if_neg (Nat.not_lt.mpr hlen)))

end

/-- Settles O9: DECODE's two refusals and its start (`execDecode_busy`, `execDecode_tooLong`, `execDecode_eq`); the
packet is read back by `packetMemory_get`. -/
theorem decodeCommand : Obligations.DecodeCommand := by
  unfold Obligations.DecodeCommand
  exact fun packet stride cap s => ⟨execDecode_busy, execDecode_tooLong, fun h hlen =>
    ⟨_, execDecode_eq h hlen, rfl, rfl, rfl, rfl, rfl, rfl, rfl, packetMemory_get packet, rfl⟩⟩

/-! ## The checks after the header (46_orchestrator.md R243, R244, R259) -/

section

variable {s : State} (hd : .dims ∈ s.written)

include hd

theorem State.hostDuties_eq (hstride : 2 * s.fw ≤ s.stride) (hcap : (s.fh - 1) * s.stride + 2 * s.fw ≤ s.cap) :
    s.hostDuties = .ok () :=
  Act.run_eq (State.dims_ok hd) ((if_neg (Nat.not_lt.mpr hstride)).trans (if_neg (Nat.not_lt.mpr hcap)))

theorem State.hostDuties_stride (hstride : s.stride < 2 * s.fw) :
    s.hostDuties = .error (.refuse .strideTooSmall) :=
  Act.run_eq (State.dims_ok hd) (if_pos hstride)

theorem State.hostDuties_buffer (hstride : 2 * s.fw ≤ s.stride)
    (hcap : s.cap < (s.fh - 1) * s.stride + 2 * s.fw) : s.hostDuties = .error (.refuse .bufferTooSmall) :=
  Act.run_eq (State.dims_ok hd) ((if_neg (Nat.not_lt.mpr hstride)).trans (if_pos hcap))

/-- A frame above P16. -/
theorem State.orchestrate_alloc (hpix : s.cfg.maxPixels < s.fw * s.fh) :
    s.orchestrate = .error (.raise .allocFail) :=
  Act.run_eq (State.dims_ok hd) (Act.require_raises (decide_eq_false (Nat.not_le.mpr hpix)))

section

variable (hpix : s.fw * s.fh ≤ s.cfg.maxPixels)

include hpix

/-- A duty of the host that is not kept stops the checks. -/
theorem State.orchestrate_duty {e : Stop} (h : s.hostDuties = .error e) : s.orchestrate = .error e :=
  Act.run_eq (State.dims_ok hd) (Act.require_eq (decide_eq_true hpix) (Act.run_error h))

section

variable (hcd : .flagsCD ∈ s.written) (hduties : s.hostDuties = .ok ())

include hcd hduties

theorem State.orchestrate_indexColor (hi : s.hdr.indexColor = true) (hrefuse : s.cfg.indexColor = .refuse) :
    s.orchestrate = .error (.refuse .indexColor) :=
  Act.run_eq (State.dims_ok hd) (Act.require_eq (decide_eq_true hpix) (Act.run_eq hduties
    (Act.run_eq (State.needRegs_written (by simpa)) (if_pos (by simp [hi, hrefuse])))))

theorem State.orchestrate_eq (h : s.hdr.indexColor = false ∨ s.cfg.indexColor ≠ .refuse) :
    s.orchestrate = .ok (s.goto .dispatch) := by
  have hpass : ¬(s.hdr.indexColor && s.cfg.indexColor == .refuse) = true := by
    simpa [← imp_iff_not_or, or_iff_not_imp_left] using h
  exact Act.run_eq (State.dims_ok hd) (Act.require_eq (decide_eq_true hpix) (Act.run_eq hduties
    (Act.run_eq (State.needRegs_written (by simpa)) (if_neg hpass))))

end

end

omit hd in
theorem step_orchestrate (hs : s.seq.stage = .orchestrate) : step s = finish s s.orchestrate := by
  simp [step, hs]

end

/-- Settles O21: each check of `State.orchestrate` by the lemma of its outcome, in R259's order. -/
theorem orchestrateStep : Obligations.OrchestrateStep := by
  unfold Obligations.OrchestrateStep
  intro s hs hh
  obtain ⟨hd, hcd⟩ := State.has_cons.mp hh
  have hcd := (State.has_cons.mp hcd).1
  rw [step_orchestrate hs]
  refine ⟨fun hpix => finish_raises (State.orchestrate_alloc hd hpix), fun hpix => ⟨fun hstride => ?_,
    fun hstride hcap => ?_, fun hstride hcap => ?_⟩⟩
  · exact finish_refused (State.orchestrate_duty hd hpix (State.hostDuties_stride hd hstride))
  · exact finish_refused (State.orchestrate_duty hd hpix (State.hostDuties_buffer hd hstride hcap))
  · have hduties := State.hostDuties_eq hd hstride hcap
    exact ⟨fun hi hrefuse => finish_refused (State.orchestrate_indexColor hd hpix hcd hduties hi hrefuse),
      fun h => finish_next (State.orchestrate_eq hd hpix hcd hduties h)⟩

/-! ## The dispatch (46_orchestrator.md R247, R252, R253, R259) -/

section

variable {s : State} {i : Instr}

/-! ### What the decoder answers for the branch that the header selects -/

theorem State.decode_branch_extra (he : s.hdr.extraException = true) : decode s.branch {} = .ok .dispatchExtra := by
  simp [decode, State.branch, decodeDispatch, he]

theorem State.decode_branch_inter (he : s.hdr.extraException = false) (ha : s.hdr.animated = true)
    (hf : s.hdr.isFirst = false) : decode s.branch {} = .ok .dispatchInter := by
  simp [decode, State.branch, decodeDispatch, he, ha, hf]

section

variable (he : s.hdr.extraException = false) (ha : s.hdr.animated = false)

include he ha

theorem State.decode_branch_mode (hm : s.hdr.encoderMode ≠ s.cfg.w2Mode) :
    decode s.branch {} = .ok .dispatchMode := by
  simp [decode, State.branch, decodeDispatch, he, ha, hm]

theorem State.decode_branch_w2d1 (hm : s.hdr.encoderMode = s.cfg.w2Mode) (hdepth : s.hdr.depth = 1) :
    decode s.branch {} = .ok .dispatchW2D1 := by
  simp [decode, State.branch, decodeDispatch, he, ha, hm, hdepth]

theorem State.decode_branch_w2d2 (hm : s.hdr.encoderMode = s.cfg.w2Mode) (hdepth : s.hdr.depth = 2) :
    decode s.branch {} = .ok .dispatchW2D2 := by
  simp [decode, State.branch, decodeDispatch, he, ha, hm, hdepth]

theorem State.decode_branch_badDepth (hm : s.hdr.encoderMode = s.cfg.w2Mode) (h1 : s.hdr.depth ≠ 1)
    (h2 : s.hdr.depth ≠ 2) : decode s.branch {} = .error .badDepth := by
  rw [State.branch, he, ha, beq_iff_eq.mpr hm]
  exact (if_neg h1).trans (if_neg h2)

end

/-! ### The step of a branch -/

variable (hs : s.seq.stage = .dispatch) (hab : .flagsAB ∈ s.written)
  (hfirst : s.hdr.animated = true → .isFirst ∈ s.written)

include hab hfirst

/-- The registers that choose the branch are the flags, and `is_first` of an animated frame (log 11). -/
theorem State.dispatchFormat_eq : s.dispatchFormat = .ok s.branch := by
  refine Act.run_eq (State.needRegs_written (by simpa)) ?_
  cases ha : s.hdr.animated with
  | false => simp [State.branch, ha]
  | true => simp [State.branch, ha, State.rd_ok (hfirst ha)]

include hs

theorem State.expectBranch_of_decode (hi : decode s.branch {} = .ok i) : s.expectBranch i = .ok () :=
  Act.expect_eq (decide_eq_true hs) (Act.run_eq (State.dispatchFormat_eq hab hfirst)
    (expect_eq_ok.mpr ((decode_admits {} s.branch).apply i hi)))

theorem State.format_dispatch : s.format = .ok s.branch := by
  simp [State.format, hs, State.dispatchFormat_eq hab hfirst]

theorem step_dispatch (hi : decode s.branch {} = .ok i) : step s = exec i s :=
  step_of_decoded (State.format_dispatch hs hab hfirst) rfl hi nofun

/-- An unknown depth ends the DECODE (R253). -/
theorem step_dispatch_badDepth (hi : decode s.branch {} = .error .badDepth) : Raises (step s) s .unsupported :=
  step_of_rejected (State.format_dispatch hs hab hfirst) rfl hi nofun

theorem exec_dispatchExtra_raises (hi : decode s.branch {} = .ok .dispatchExtra) :
    Raises (exec .dispatchExtra s) s .unsupported :=
  finish_raises (Act.run_eq (State.expectBranch_of_decode hs hab hfirst hi) rfl)

theorem exec_dispatchMode_raises (hi : decode s.branch {} = .ok .dispatchMode) :
    Raises (exec .dispatchMode s) s .unsupported :=
  finish_raises (Act.run_eq (State.expectBranch_of_decode hs hab hfirst hi) rfl)

end

/-- Settles O22: the header selects the branch (`State.decode_branch_extra`, `State.decode_branch_mode`,
`State.decode_branch_badDepth`), and a step runs it (`step_dispatch`). -/
theorem dispatchRejects : Obligations.DispatchRejects := by
  unfold Obligations.DispatchRejects
  intro s hs hh hfirst
  have hab := (State.has_cons.mp hh).1
  have hfirst ha := (State.has_cons.mp (hfirst ha)).1
  refine ⟨fun he => ?_, fun he ha hm => ?_, fun he ha hm h1 h2 => ?_⟩
  · have hi := State.decode_branch_extra he
    have hraise := exec_dispatchExtra_raises hs hab hfirst hi
    exact ⟨hraise, step_dispatch hs hab hfirst hi ▸ hraise⟩
  · have hi := State.decode_branch_mode he ha hm
    have hraise := exec_dispatchMode_raises hs hab hfirst hi
    exact ⟨hraise, step_dispatch hs hab hfirst hi ▸ hraise⟩
  · exact step_dispatch_badDepth hs hab hfirst (State.decode_branch_badDepth he ha hm h1 h2)

end Sys2Proof.Machine

namespace Sys2Proof.Machine

open Sys2Proof

/-! ## The start of an inter frame (46_orchestrator.md R246, R250, R251) -/

section

variable {s : State}

/-- Before its first symbol an inter frame holds P11's value at every pixel (R246). -/
theorem State.interFrame_at {x y : Nat} (hx : x < s.fw) (hy : y < s.fh) :
    (s.interFrame s.fw s.fh).at x y =
      match s.cfg.interInit with
        | .const v => v
        | .impl id => Config.interInitFn id x y := by
  have hfill (f : Nat → Nat → Half) : (Pixels.fill [] 0 0 s.fw s.fh f).at x y = f x y := by
    have hw := s.fw_lt
    rw [Pixels.at_fill _ _ _ _ _ _ (by omega) (by omega), if_pos (by omega)]
  unfold State.interFrame
  cases s.cfg.interInit with
  | const v =>
    by_cases hv : v = 0
    · exact (congrArg (Pixels.at · x y) (if_pos hv)).trans hv.symm
    · exact (congrArg (Pixels.at · x y) (if_neg hv)).trans (hfill _)
  | impl id => exact hfill _

section

variable (hs : s.seq.stage = .dispatch) (hh : s.has [.flagsAB, .isFirst, .dims, .headerSize, .dataEnd] = true)
  (hi : decode s.branch {} = .ok .dispatchInter)

include hs hh hi

theorem State.expectBranch_inter : s.expectBranch .dispatchInter = .ok () :=
  have hw := State.mem_of_has hh
  State.expectBranch_of_decode hs (hw _ (by simp)) (fun _ => hw _ (by simp)) hi

/-- No usable reference (R251). -/
theorem exec_dispatchInter_noReference (href : s.refUsable = false) :
    Raises (exec .dispatchInter s) s .invalidData :=
  finish_raises (Act.run_eq (State.expectBranch_inter hs hh hi)
    (Act.run_eq (State.dims_ok (State.mem_of_has hh _ (by simp))) (Act.require_raises href)))

/-- A usable reference: the reader set is built in the new unit, and the delta table is next. -/
theorem exec_dispatchInter_eq (href : s.refUsable = true) :
    exec .dispatchInter s =
      finish s (do let t ← (s.enterUnit .a9llInter (s.interFrame s.fw s.fh)).buildA9LL; .ok (t.goto .table)) :=
  congrArg (finish s) (Act.run_eq (State.expectBranch_inter hs hh hi)
    (Act.run_eq (State.dims_ok (State.mem_of_has hh _ (by simp))) (Act.require_eq href rfl)))

end

end

/-- Settles O24: DISPATCH.INTER is the construction of the reader set over P11's frame (`exec_dispatchInter_eq`,
`State.interFrame_at`), or the error of a missing reference (`exec_dispatchInter_noReference`). -/
theorem dispatchInterStarts : Obligations.DispatchInterStarts := by
  unfold Obligations.DispatchInterStarts
  intro s hs hh he ha hf
  have hw := State.mem_of_has hh
  have hi := State.decode_branch_inter he ha hf
  have hregs : (s.enterUnit .a9llInter (s.interFrame s.fw s.fh)).has [.headerSize, .dataEnd] = true := by
    simp [State.has, hw]
  refine ⟨fun href => ?_, fun href hl hok => ?_, fun href hbad => ?_⟩
  · have hraise := exec_dispatchInter_noReference hs hh hi href
    exact ⟨hraise, step_dispatch hs (hw _ (by simp)) (fun _ => hw _ (by simp)) hi ▸ hraise⟩
  · rw [exec_dispatchInter_eq hs hh hi href]
    exact ⟨_, finish_next (Act.run_eq (State.buildA9LL_ok hregs hl hok) rfl),
      fun x y => State.interFrame_at, rfl, rfl, rfl, rfl, rfl, State.has_cons.mpr ⟨State.mem_mark_self, rfl⟩, rfl⟩
  · rw [exec_dispatchInter_eq hs hh hi href]
    exact finish_raises (Act.run_error (State.buildA9LL_bad hregs hbad))

/-! ## The start of a depth-1 frame (46_orchestrator.md R253, 41_readers.md R142, 44_w2_depth1.md R200) -/

section

variable {s : State}

/-- The regions of a depth-1 frame lie one after another behind the 16-byte header at `b`. -/
theorem w2Header_eq (m : Memory) (b e : Nat) {n il ll : Nat} (hn : n = (Memory.u32 m b).toNat)
    (hil : il = (Memory.u32 m (b + 4)).toNat) (hll : ll = (Memory.u32 m (b + 8)).toNat) :
    w2Header m b e false =
      { tab := { start := b + 16, stop := b + 16 + 4 * n }
        idx := { start := b + 16 + 4 * n, stop := b + 16 + 4 * n + il }
        lit := { start := b + 16 + 4 * n + il, stop := b + 16 + 4 * n + il + ll }
        valid := decide (b + 16 + 4 * n + il + ll ≤ e) } := by
  subst hn hil hll
  rfl

/-- Under the test configuration's P13 a depth-1 frame has its header at the base (30_encoding.md R73). -/
theorem State.w2Regions_packet {b e : Nat} (hc : s.cfg.w2Layout = Config.tc0.w2Layout) :
    s.w2Regions .packet b e = if e < b + 16 then none else some (w2Header s.pkt b e false) := by
  delta State.w2Regions
  rw [hc]
  rfl

/-- The main loop of the depth-1 pass leaves `SEQ.t` alone. -/
theorem State.seqNextW2_t (s : State) : s.seqNextW2.t = s.seq.t := by
  unfold State.seqNextW2
  split <;> rfl

variable (hs : s.seq.stage = .dispatch) (hh : s.has [.flagsAB, .dims, .headerSize, .dataEnd] = true)
  (ha : s.hdr.animated = false) (hi : decode s.branch {} = .ok .dispatchW2D1)

include hs hh ha hi

/-- DISPATCH.W2D1 starts the depth-1 pass over the packet, in the new unit. -/
theorem exec_dispatchW2D1_eq :
    exec .dispatchW2D1 s =
      finish s ((s.enterUnit .w2d1 []).startW2D1 .packet s.hdr.dataStart s.hdr.dataEnd) := by
  have hw := State.mem_of_has hh
  have hfirst : s.hdr.animated = true → .isFirst ∈ s.written := by simp [ha]
  exact congrArg (finish s) (Act.run_eq (State.expectBranch_of_decode hs (hw _ (by simp)) hfirst hi)
    (Act.run_eq (State.needRegs_written (by simp [hw])) rfl))

end

/-- Settles O25: the depth-1 pass starts over the packet (`exec_dispatchW2D1_eq`); its regions pass their checks exactly
when the last one ends in time (`w2Ok_header`). -/
theorem dispatchW2D1Starts : Obligations.DispatchW2D1Starts := by
  unfold Obligations.DispatchW2D1Starts
  intro s b e n il ll hs hh he ha hm hdepth hw hht hlen hcfg hb hend hn hil hll
  have hdims := State.mem_of_has hh .dims (by simp)
  have hheader := w2Header_eq s.pkt b e hn hil hll
  have hok : w2Ok (w2Header s.pkt b e false) b e = decide (b + 16 + 4 * n + il + ll ≤ e) := by
    rw [w2Ok_header (Nat.le_refl b), hheader]
  have hregions : (s.enterUnit .w2d1 []).w2Regions .packet b e =
      if e < b + 16 then none else some (w2Header s.pkt b e false) := State.w2Regions_packet hcfg
  rw [exec_dispatchW2D1_eq hs hh ha (State.decode_branch_w2d1 he ha hm hdepth), ← hb, ← hend]
  refine ⟨fun hfit => ?_, fun hshort => ?_⟩
  · rw [if_neg (by omega)] at hregions
    have hidx : (w2Header s.pkt b e false).idx.stop ≤ s.len := by
      rw [hheader]
      show b + 16 + 4 * n + il ≤ s.len
      omega
    have hopen := State.startW2D1_eq (s := s.enterUnit .w2d1 []) rfl hdims hidx hregions
      (hok.trans (decide_eq_true hfit))
    have hstage := State.w2Opened_stage (s := s.enterUnit .w2d1 []) (mem := .packet)
      (g := w2Header s.pkt b e false) hw hht
    rw [hheader] at hopen hstage
    rw [Nat.add_sub_cancel_left] at hstage
    refine ⟨_, finish_next hopen, Pixels.at_nil, rfl, rfl, rfl, rfl, rfl, State.seqNextW2_t _, hstage, ?_, rfl⟩
    exact State.has_cons.mpr ⟨State.mem_mark_of_mem State.mem_mark_self,
      State.has_cons.mpr ⟨State.mem_mark_self, rfl⟩⟩
  · refine finish_raises (State.startW2D1_raises rfl fun g hg => ?_)
    by_cases hroom : e < b + 16
    · exact absurd (hg.symm.trans (hregions.trans (if_pos hroom))) (Option.some_ne_none g)
    · obtain rfl := Option.some.inj (hg.symm.trans (hregions.trans (if_neg hroom)))
      exact hok.trans (decide_eq_false (Nat.not_le.mpr hshort))

/-! ## The start of a depth-2 frame (46_orchestrator.md R253, 41_readers.md R143, 45_w2_depth2.md R220, R221, R232) -/

section

variable {s : State} {d : D2Coding} {g : D2Regions}

/-- The state once `RS.W2D2` has been built over these regions. -/
def State.d2Read (s : State) (g : D2Regions) : State :=
  State.mark { s with
    d2b := bitCursorOver g.bits .packet
    d2 := { p0 := byteCursorOver g.byte0 .packet, p1 := byteCursorOver g.byte1 .packet,
            p2 := byteCursorOver g.byte2 .packet, p3 := byteCursorOver g.byte3 .packet } } .rsW2D2

/-- The registers written once `IBUF` is there (10_state.md R39). -/
def State.d2Marks (s : State) : List Reg :=
  (((((s.mark .rsW2D2).mark .size).mark .ibuf).mark .ipos).mark .dist).written

/-- The state once `IBUF` has `S` zero bytes too, and `IPOS` and `DIST` have their first values (R220, R221). -/
def State.d2Opened (s : State) (d : D2Coding) (g : D2Regions) : State :=
  { s.d2Read g with size := g.size, ibuf := [], ipos := 0, dist := d.dist0, written := s.d2Marks }

theorem State.has_goto {rs : List Reg} (g : Stage) : (s.goto g).has rs = s.has rs := rfl

theorem State.d2Opened_has : (s.d2Opened d g).has [.rsW2D2, .size, .ibuf, .ipos, .dist] = true := by
  simp [State.d2Opened, State.d2Marks, State.has, State.mem_mark, -State.mark_written]

section

variable (hh : s.has [.headerSize, .dataEnd] = true)

include hh

/-- The layout's words do not fit (30_encoding.md R74). -/
theorem State.buildW2D2_none (hg : s.d2Regions d = none) : s.buildW2D2 d = .error (.raise .invalidData) := by
  have hw := State.mem_of_has hh
  refine Act.run_eq (State.rd_ok (hw _ (by simp))) (Act.run_eq (State.rd_ok (hw _ (by simp))) ?_)
  rw [hg]

variable (hg : s.d2Regions d = some g)

include hg

theorem State.buildW2D2_bad (hbad : d2Ok g s.hdr.headerSize.toNat s.hdr.dataEnd = false) :
    s.buildW2D2 d = .error (.raise .invalidData) := by
  have hw := State.mem_of_has hh
  refine Act.run_eq (State.rd_ok (hw _ (by simp))) (Act.run_eq (State.rd_ok (hw _ (by simp))) ?_)
  rw [hg]
  exact Act.require_raises hbad

theorem State.buildW2D2_eq (hok : d2Ok g s.hdr.headerSize.toNat s.hdr.dataEnd = true) :
    s.buildW2D2 d = .ok (g.size, s.d2Read g) := by
  have hw := State.mem_of_has hh
  refine Act.run_eq (State.rd_ok (hw _ (by simp))) (Act.run_eq (State.rd_ok (hw _ (by simp))) ?_)
  rw [hg]
  exact Act.require_eq hok rfl

end

section

variable (hs : s.seq.stage = .dispatch) (hh : s.has [.flagsAB, .headerSize, .dataEnd] = true)
  (ha : s.hdr.animated = false) (hi : decode s.branch {} = .ok .dispatchW2D2)

include hs hh ha hi

theorem State.expectBranch_w2d2 : s.expectBranch .dispatchW2D2 = .ok () :=
  State.expectBranch_of_decode hs (State.mem_of_has hh _ (by simp)) (by simp [ha]) hi

/-- P14 has no value (93_implementation_defined.md). -/
theorem exec_dispatchW2D2_refused (hd : s.cfg.d2 = none) : exec .dispatchW2D2 s = .refused .noD2Coding :=
  finish_refused (Act.run_eq (State.expectBranch_w2d2 hs hh ha hi) (Act.run_error (by simp [State.coding, hd])))

variable (hd : s.cfg.d2 = some d)

include hd

/-- A reader set that is not built ends the DECODE. -/
theorem exec_dispatchW2D2_unbuilt (hb : (s.enterUnit .w2d2 []).buildW2D2 d = .error (.raise .invalidData)) :
    Raises (exec .dispatchW2D2 s) s .invalidData :=
  finish_raises (Act.run_eq (State.expectBranch_w2d2 hs hh ha hi)
    (Act.run_eq (State.coding_eq_ok.mpr hd) (Act.run_error hb)))

variable (hb : (s.enterUnit .w2d2 []).buildW2D2 d = .ok (g.size, (s.enterUnit .w2d2 []).d2Read g))

include hb

/-- An `IBUF` above P17 (R221). -/
theorem exec_dispatchW2D2_alloc (hsize : s.cfg.maxPacket < g.size) :
    Raises (exec .dispatchW2D2 s) s .allocFail :=
  finish_raises (Act.run_eq (State.expectBranch_w2d2 hs hh ha hi) (Act.run_eq (State.coding_eq_ok.mpr hd)
    (Act.run_eq hb (Act.require_raises (decide_eq_false (Nat.not_le.mpr hsize))))))

/-- The buffer is there: the first strip is next where it fits, else the strip loop goes on (R220). -/
theorem exec_dispatchW2D2_eq (hsize : g.size ≤ s.cfg.maxPacket) :
    exec .dispatchW2D2 s =
      finish s (if 16 ≤ g.size then .ok (((s.enterUnit .w2d2 []).d2Opened d g).goto .d2Strip1)
        else ((s.enterUnit .w2d2 []).d2Opened d g).d2Next) :=
  congrArg (finish s) (Act.run_eq (State.expectBranch_w2d2 hs hh ha hi) (Act.run_eq (State.coding_eq_ok.mpr hd)
    (Act.run_eq hb (Act.require_eq (decide_eq_true hsize) rfl))))

end

/-- A buffer with bytes: the first strip is next, or the tail (R220, R232). -/
theorem State.d2Opened_next (hpos : 0 < g.size) :
    (if 16 ≤ g.size then .ok ((s.d2Opened d g).goto .d2Strip1) else (s.d2Opened d g).d2Next) =
      (.ok ((s.d2Opened d g).goto (if 16 ≤ g.size then .d2Strip1 else .d2Tail)) : Act State) := by
  have hw := State.mem_of_has (State.d2Opened_has (s := s) (d := d) (g := g))
  by_cases hstrip : 16 ≤ g.size
  · rw [if_pos hstrip, if_pos hstrip]
  · have hnext := State.d2Next_more (s := s.d2Opened d g) (hw _ (by simp)) (hw _ (by simp)) hpos
    have htail : ¬(s.d2Opened d g).ipos + 16 ≤ (s.d2Opened d g).size := by
      rw [show (s.d2Opened d g).ipos = 0 from rfl, Nat.zero_add]
      exact hstrip
    rw [if_neg hstrip, if_neg hstrip, hnext, if_neg htail]

/-- An empty buffer: the nested pass starts at once and finds no room for its header (R220, R233). -/
theorem State.d2Opened_empty (hzero : g.size = 0) :
    (s.d2Opened d g).d2Next = .error (.raise .invalidData) := by
  have hhas := State.d2Opened_has (s := s) (d := d) (g := g)
  have hw := State.mem_of_has hhas
  have hsize : (s.d2Opened d g).size = 0 := hzero
  rw [State.d2Next_full (hw _ (by simp)) (hw _ (by simp)) hsize.symm, hsize]
  refine State.startW2D1_raises (State.has_cons.mpr ⟨hw _ (by simp), State.has_cons.mpr ⟨hw _ (by simp), rfl⟩⟩) ?_
  intro r hr
  rw [State.w2Regions_nested_short _ (by decide)] at hr
  cases hr

end

/-- Settles O26: DISPATCH.W2D2 builds P14's reader set or stops (`State.buildW2D2_none`, `State.buildW2D2_bad`,
`State.buildW2D2_eq`), then opens `IBUF` (`exec_dispatchW2D2_eq`) and goes on by its size (`State.d2Opened_next`,
`State.d2Opened_empty`). -/
theorem dispatchW2D2Starts : Obligations.DispatchW2D2Starts := by
  unfold Obligations.DispatchW2D2Starts
  intro s d g hs hh he ha hm hdepth
  have hi := State.decode_branch_w2d2 he ha hm hdepth
  have hregs : (s.enterUnit .w2d2 []).has [.headerSize, .dataEnd] = true := (State.has_cons.mp hh).2
  refine ⟨exec_dispatchW2D2_refused hs hh ha hi, fun hd hg => ?_, fun hd hg => ⟨fun hbad => ?_, fun hok => ?_⟩⟩
  · exact exec_dispatchW2D2_unbuilt hs hh ha hi hd (State.buildW2D2_none hregs hg)
  · exact exec_dispatchW2D2_unbuilt hs hh ha hi hd (State.buildW2D2_bad hregs hg hbad)
  · have hb := State.buildW2D2_eq hregs hg hok
    refine ⟨exec_dispatchW2D2_alloc hs hh ha hi hd hb, fun hsize hpos => ?_, fun hzero => ?_⟩
    · rw [exec_dispatchW2D2_eq hs hh ha hi hd hb hsize, State.d2Opened_next hpos]
      refine ⟨_, rfl, rfl, fun _ => rfl, rfl, rfl, Pixels.at_nil, rfl, rfl, ?_, rfl, rfl⟩
      exact (State.has_goto _).trans State.d2Opened_has
    · rw [exec_dispatchW2D2_eq hs hh ha hi hd hb (by omega), if_neg (by omega)]
      exact finish_raises (State.d2Opened_empty hzero)

end Sys2Proof.Machine

namespace Sys2Proof.Machine

open Sys2Proof

/-! ## The host's buffer (20_memory.md R53) -/

/-- The address of pixel `(x, y)` in the host's buffer. -/
def outAddress (stride x y : Nat) : Nat := y * stride + 2 * x

/-- Two pixels of a frame share no byte of a buffer whose lines hold it. -/
theorem outAddress_disjoint {stride w x y x' y' : Nat} (hw : 2 * w ≤ stride) (hx : x < w) (hx' : x' < w)
    (hne : (x, y) ≠ (x', y')) :
    outAddress stride x y + 2 ≤ outAddress stride x' y' ∨ outAddress stride x' y' + 2 ≤ outAddress stride x y := by
  have line {u v a b : Nat} (ha : a < w) (hlt : u < v) : outAddress stride a u + 2 ≤ outAddress stride b v := by
    have hnext : (u + 1) * stride ≤ v * stride := Nat.mul_le_mul_right stride hlt
    rw [Nat.add_mul, Nat.one_mul] at hnext
    simp only [outAddress]
    omega
  rcases Nat.lt_trichotomy y y' with hlt | rfl | hlt
  · exact .inl (line hx hlt)
  · have hcol : x ≠ x' := fun h => hne (congrArg (·, y) h)
    simp only [outAddress]
    omega
  · exact .inr (line hx' hlt)

section

variable {e : Endian} {stride w h : Nat} {f : Pixels} {buf : Memory}

/-- The buffer after one more pixel. -/
def putPixelBytes (e : Endian) (stride : Nat) (f : Pixels) (buf : Memory) (p : Nat × Nat) : Memory :=
  Store.put (Store.put buf (outAddress stride p.1 p.2) (nativeBytes e (f.at p.1 p.2)).1)
    (outAddress stride p.1 p.2 + 1) (nativeBytes e (f.at p.1 p.2)).2

theorem writeOut_eq_foldl : writeOut e stride w h f buf = (raster w h).foldl (putPixelBytes e stride f) buf := rfl

theorem find_putPixelBytes (p : Nat × Nat) (a : Nat) :
    Store.find (putPixelBytes e stride f buf p) a =
      if a = outAddress stride p.1 p.2 + 1 then some (nativeBytes e (f.at p.1 p.2)).2
      else if a = outAddress stride p.1 p.2 then some (nativeBytes e (f.at p.1 p.2)).1
      else Store.find buf a := by
  simp only [putPixelBytes, Store.find_put]

/-- A byte of none of these pixels is as before. -/
theorem find_foldl_putPixelBytes_other {l : List (Nat × Nat)} {a : Nat}
    (ha : ∀ p ∈ l, a ≠ outAddress stride p.1 p.2 ∧ a ≠ outAddress stride p.1 p.2 + 1) :
    Store.find (l.foldl (putPixelBytes e stride f) buf) a = Store.find buf a := by
  induction l generalizing buf with
  | nil => rfl
  | cons p l ih =>
    obtain ⟨hlow, hhigh⟩ := ha p List.mem_cons_self
    rw [List.foldl_cons, ih fun q hq => ha q (List.mem_cons_of_mem p hq), find_putPixelBytes, if_neg hhigh,
      if_neg hlow]

/-- The bytes of a pixel that shares none with the other pixels are the pixel's own. -/
theorem find_foldl_putPixelBytes_same {l : List (Nat × Nat)} {p : Nat × Nat} (hp : p ∈ l)
    (hdisj : ∀ q ∈ l, q ≠ p → outAddress stride p.1 p.2 + 2 ≤ outAddress stride q.1 q.2 ∨
      outAddress stride q.1 q.2 + 2 ≤ outAddress stride p.1 p.2) :
    Store.find (l.foldl (putPixelBytes e stride f) buf) (outAddress stride p.1 p.2) =
        some (nativeBytes e (f.at p.1 p.2)).1 ∧
      Store.find (l.foldl (putPixelBytes e stride f) buf) (outAddress stride p.1 p.2 + 1) =
        some (nativeBytes e (f.at p.1 p.2)).2 := by
  induction l generalizing buf with
  | nil => exact absurd hp List.not_mem_nil
  | cons q l ih =>
    have hrest (r : Nat × Nat) (hr : r ∈ l) := hdisj r (List.mem_cons_of_mem q hr)
    rw [List.foldl_cons]
    by_cases hmem : p ∈ l
    · exact ih hmem hrest
    · obtain rfl : p = q := (List.mem_cons.mp hp).resolve_right hmem
      have hfree (r : Nat × Nat) (hr : r ∈ l) := hrest r hr fun heq => hmem (heq ▸ hr)
      rw [find_foldl_putPixelBytes_other fun r hr => by have := hfree r hr; omega,
        find_foldl_putPixelBytes_other fun r hr => by have := hfree r hr; omega, find_putPixelBytes,
        find_putPixelBytes, if_neg (by omega), if_pos rfl, if_pos rfl]
      exact ⟨rfl, rfl⟩

/-- Each pixel of the frame stands at its address, in P18's byte order. -/
theorem find_writeOut_pixel (hw : 2 * w ≤ stride) {x y : Nat} (hx : x < w) (hy : y < h) :
    Store.find (writeOut e stride w h f buf) (outAddress stride x y) = some (nativeBytes e (f.at x y)).1 ∧
      Store.find (writeOut e stride w h f buf) (outAddress stride x y + 1) = some (nativeBytes e (f.at x y)).2 := by
  rw [writeOut_eq_foldl]
  refine find_foldl_putPixelBytes_same (mem_raster.mpr ⟨hx, hy⟩) fun ⟨x', y'⟩ hq hne => ?_
  exact outAddress_disjoint hw hx (mem_raster.mp hq).1 hne.symm

/-- Padding is not written. -/
theorem find_writeOut_other {a : Nat}
    (ha : ∀ x y, x < w → y < h → a ≠ outAddress stride x y ∧ a ≠ outAddress stride x y + 1) :
    Store.find (writeOut e stride w h f buf) a = Store.find buf a := by
  rw [writeOut_eq_foldl]
  refine find_foldl_putPixelBytes_other fun ⟨x, y⟩ hp => ?_
  obtain ⟨hx, hy⟩ := mem_raster.mp hp
  exact ha x y hx hy

theorem nativeBytes_fst (v : Half) :
    (nativeBytes e v).1 = match e with | .little => v.extractLsb' 0 8 | .big => v.extractLsb' 8 8 := by
  cases e <;> rfl

theorem nativeBytes_snd (v : Half) :
    (nativeBytes e v).2 = match e with | .little => v.extractLsb' 8 8 | .big => v.extractLsb' 0 8 := by
  cases e <;> rfl

end

/-! ## Completion (46_orchestrator.md R254, R255) -/

section

variable {s t : State}

/-- The state in which a DECODE has completed. -/
def State.completed (s : State) : State :=
  { s with
    frame := s.finalFrame s.fw s.fh
    ref := { valid := true, w := s.hdr.w, h := s.hdr.h, pix := s.finalFrame s.fw s.fh }
    out := outOf s.hdr
    outBuf := writeOut s.cfg.endian s.stride s.fw s.fh (s.finalFrame s.fw s.fh) s.outBuf
    status := { phase := .done, code := .ok }
    seq := { s.seq with stage := .idle } }

theorem State.complete_eq (hh : s.has (.dims :: (outNeeds s.hdr ++ meaningNeeds s.hdr)) = true)
    (hstride : 2 * s.fw ≤ s.stride) (hcap : (s.fh - 1) * s.stride + 2 * s.fw ≤ s.cap) :
    s.complete = .ok s.completed := by
  obtain ⟨hd, hneeds⟩ := State.has_cons.mp hh
  obtain ⟨hout, hmeaning⟩ := State.has_append.mp hneeds
  exact Act.run_eq (State.dims_ok hd) (Act.run_eq (State.needRegs_ok hout) (Act.run_eq (State.needRegs_ok hmeaning)
    (Act.run_eq (State.hostDuties_eq hd hstride hcap) rfl)))

theorem step_complete (hs : s.seq.stage = .complete) : step s = finish s s.complete := by
  simp [step, hs]

end

/-- Settles O27: a step at completion leads to `State.completed`; its pixels are `State.finalFrame_at`, its buffer
`find_writeOut_pixel` and `find_writeOut_other`. -/
theorem completionStep : Obligations.CompletionStep := by
  unfold Obligations.CompletionStep
  intro s hs hh hstride hcap
  refine ⟨s.completed, (step_complete hs).trans (finish_next (State.complete_eq hh hstride hcap)), rfl, rfl,
    State.finalFrame_plain, fun x y => State.finalFrame_at, rfl, rfl, rfl, rfl, rfl, rfl, rfl, rfl, rfl, rfl,
    fun x y hx hy => ?_, fun a => find_writeOut_other, rfl, rfl⟩
  obtain ⟨hlow, hhigh⟩ := find_writeOut_pixel (e := s.cfg.endian) (f := s.completed.frame) (buf := s.outBuf)
    hstride hx hy
  exact ⟨hlow.trans (congrArg some (nativeBytes_fst _)), hhigh.trans (congrArg some (nativeBytes_snd _))⟩

/-! ## How a DECODE goes on

A meaning of a running DECODE that raises no error leaves the sequencer at a control point of the DECODE. -/

/-- A DECODE runs: the sequencer stands at a control point of it. -/
abbrev State.Running (s : State) : Prop := s.seq.stage ≠ .idle

/-- The outcome of a rule that started in `s`: the DECODE goes on, or the rule has raised an error. -/
def GoesOn (s : State) (o : Host.Outcome State Fault Refusal) : Prop :=
  ∀ t, o = .next t → t.Running ∨ ∃ e, t = s.fail e

section

variable {s t : State}

theorem GoesOn.finish {a : Act State} (h : Yields a State.Running) : GoesOn s (finish s a) := fun t ht =>
  (finish_eq_next.mp ht).imp (h.apply t) fun ⟨e, _, he⟩ => ⟨e, he⟩

/-! ### The sequencer's steps -/

theorem State.hdrDone_running (k : HdrStep) : Yields (s.hdrDone k) State.Running :=
  .value fun _ => .ok (hdrNext_ne_idle s.hdr k)

theorem State.nextTile_running : Yields s.nextTile State.Running :=
  .value fun ⟨_, _⟩ => .ite (fun _ => .ok nofun) fun _ => .ok nofun

theorem State.nextMb_running : Yields s.nextMb State.Running :=
  .value fun ⟨_, _⟩ => .ite (fun _ => .ok nofun) fun _ => .ok nofun

theorem State.nextSub_running (k : SubKind) : Yields (s.nextSub k) State.Running := by
  refine .value fun ⟨w, h⟩ => ?_
  dsimp only
  split
  · exact .ok nofun
  · exact s.nextMb_running

theorem State.tileDone_running (k : TileKind) : Yields (s.tileDone k) State.Running := by
  cases k with
  | frame => exact s.nextTile_running
  | within k => exact s.nextSub_running k

theorem State.pixelDone_running (k : TileKind) (h : s.Running) : Yields (s.pixelDone k) State.Running :=
  .ite (fun _ => .ok h) fun _ => s.tileDone_running k

theorem State.w2Next_running : Yields s.w2Next State.Running :=
  .value fun _ => .value fun _ => .ite (fun _ => .ok nofun) fun _ => .value fun _ =>
    .ite (fun _ => .ok nofun) fun _ => .ok nofun

theorem State.startW2D1_running (mem : CurMem) (b e : Nat) : Yields (s.startW2D1 mem b e) State.Running :=
  .value fun _ => .value fun ⟨_, _⟩ => State.w2Next_running

theorem State.d2Next_running : Yields s.d2Next State.Running :=
  .value fun _ => .value fun _ => .ite (fun _ => .ok nofun) fun _ => .ite (fun _ => .ok nofun) fun _ =>
    s.startW2D1_running ..

theorem stripStage_ne_idle (strip : Strip) (j : Nat) : stripStage strip j ≠ .idle := by
  unfold stripStage
  split <;> nofun

theorem State.valueDone_running (strip : Strip) (j : Nat) : Yields (s.valueDone strip j) State.Running :=
  .ite (fun _ => .ok (stripStage_ne_idle strip (j + 1))) fun _ => s.d2Next_running

theorem afterTable_ne_idle (u : SeqUnit) (w h : Nat) : afterTable u w h ≠ .idle := by
  unfold afterTable
  split
  · nofun
  · split <;> nofun

/-! ### Tiles and pixels -/

theorem State.tableDone_running (dt : List Half) : Yields (s.tableDone dt) State.Running :=
  .value fun ⟨_, _⟩ => .ok (afterTable_ne_idle _ _ _)

theorem State.openTile_running (pr : Predictor) (k : TileKind) (mask : Half) :
    Yields (s.openTile pr k mask) State.Running :=
  .value fun _ => .ok nofun

theorem State.edgeTile_running (k : TileKind) : Yields (s.edgeTile k) State.Running :=
  .value fun ⟨_, _⟩ => .ite (fun _ => .value fun t => t.tileDone_running k) fun _ => .value fun t =>
    t.tileDone_running k

/-- Work at a pixel does not move the sequencer; then the tile's loop goes on. -/
theorem Evolves.pixelDone_running {pr : Predictor} {k k' : TileKind} (h : Evolves s t)
    (hs : s.seq.stage = .pixel pr k') : Yields (t.pixelDone k) State.Running := by
  have hstage : t.seq.stage = .pixel pr k' := (h.keeps (·.seq.stage) fun _ => rfl).trans hs
  exact State.pixelDone_running k fun hidle => nomatch hstage.symm.trans hidle

theorem State.residual_running (c i : Nat) : Yields (s.residual c i) State.Running :=
  .bind (s.pixelHere_yields false) fun ⟨_, _, _, _⟩ hs => .bind (s.skipBits_evolves .bit2 3) fun t ht =>
    .bind (t.skipBits_evolves .bit1 _) fun u hu => .value fun _ => .value fun _ =>
      .bind (u.putPixel_evolves ..) fun _ hv => ((ht.trans hu).trans hv).pixelDone_running hs

theorem execPixCopy_goesOn : GoesOn s (execPixCopy s) :=
  .finish (.bind (s.pixelHere_yields true) fun ⟨_, _, _, _⟩ hs => .value fun _ =>
    .bind (s.putPixel_evolves ..) fun _ ht => ht.pixelDone_running hs)

theorem execPixLit_goesOn (lit : Half) : GoesOn s (execPixLit lit s) :=
  .finish (.bind (s.pixelHere_yields false) fun ⟨_, _, _, _⟩ hs => .bind (s.skipBits_evolves .bit2 3) fun t ht =>
    .bind (t.skipBytes_evolves .litc 2) fun u hu => .bind (u.putPixel_evolves ..) fun _ hv =>
      ((ht.trans hu).trans hv).pixelDone_running hs)

/-! ### Meanings that depend on the control point, or on what they read -/

theorem execHdrAlphaModern_goesOn (raw : Half) (mode pad : Byte) : GoesOn s (execHdrAlphaModern raw mode pad s) := by
  refine .finish ?_
  split
  · exact .value fun _ => .value fun _ => .value fun _ => State.hdrDone_running _
  · exact .value fun _ => .ite (fun _ => .value fun _ => State.hdrDone_running _) fun _ => .value fun _ =>
      State.hdrDone_running _
  · exact .error

theorem execGate_goesOn : GoesOn s (execGate s) := by
  refine .finish ?_
  split
  · exact .value fun _ => .value fun _ => .ok nofun
  · exact .error

theorem execD2Dist_goesOn (flag : Bool) (update : DistUpdate) : GoesOn s (execD2Dist flag update s) := by
  refine .finish ?_
  split
  · refine .value fun d => .value fun t => ?_
    dsimp only
    split
    · exact .value fun _ => .ok nofun
    · exact .value fun _ => .value fun _ => .ok nofun
    · exact .value fun _ => .value fun _ => .ok nofun
    · exact .error
  · exact .error

theorem execD2Value_goesOn (code : List Bool) (payload : D2Payload) : GoesOn s (execD2Value code payload s) := by
  refine .finish ?_
  split
  · refine .value fun d => .value fun t => ?_
    cases payload with
    | backref => exact .value fun _ => .value fun u => u.valueDone_running _ _
    | xor key =>
      refine .value fun _ => .value fun u => ?_
      split
      · exact .error
      · exact .value fun _ => .value fun v => v.valueDone_running _ _
    | lit v => exact .value fun _ => .value fun u => .value fun w => w.valueDone_running _ _
  · exact .error

/-! ### Every meaning -/

/-- Every meaning but those of the host's commands goes on with the DECODE, or raises an error. -/
theorem exec_goesOn (i : Instr) (s : State) (hi : i.isCommand = false) : GoesOn s (exec i s) := by
  cases i with
  | hdrVersion v => exact .finish (.value fun _ => State.hdrDone_running _)
  | hdrLen | hdrRawType v | hdrFlagsAB a b | hdrDims w h | hdrFlagsCD c d | hdrAlphaPresent | hdrSize | hdrQpGate =>
    exact .finish (.value fun _ => .value fun _ => State.hdrDone_running _)
  | hdrMagic => exact .finish (.value fun _ => .value fun _ => .value fun _ => State.hdrDone_running _)
  | hdrAlphaLegacy raw | hdrAnim total current delay noRepeat pad | hdrIndex pad count | hdrXval =>
    exact .finish (.value fun _ => .value fun _ => .value fun _ => .value fun _ => State.hdrDone_running _)
  | hdrAlphaModern raw mode pad => exact execHdrAlphaModern_goesOn raw mode pad
  | hdrDataEnd =>
    exact .finish (.value fun _ => .value fun _ => .ite (fun _ => .value fun _ => State.hdrDone_running _) fun _ =>
      .value fun _ => State.hdrDone_running _)
  | hdrFirst =>
    exact .finish (.value fun _ => .value fun _ => .ite (fun _ => .value fun _ => State.hdrDone_running _) fun _ =>
      State.hdrDone_running _)
  | tile2Dir0 m | tile2Dir1 m | tile2Dir2 m | s3Dir0 m | s3Dir1 m | s3Dir2 m | s3ResRef m | s3ResMv m | s2Dir0 m
    | s2Dir1 m | s2Dir2 m =>
    exact .finish (.value fun _ => .value fun t => t.openTile_running _ _ m)
  | tile2Edge | s3Edge | s2Edge => exact .finish (.value fun _ => .value fun t => t.edgeTile_running _)
  | pixCopy => exact execPixCopy_goesOn
  | pixRes0 i | pixRes1 i | pixRes2 i | pixRes3 i | pixRes4 i | pixRes5 i | pixRes6 i =>
    exact .finish (s.residual_running _ _)
  | pixLit lit => exact execPixLit_goesOn lit
  | dtab signs mags =>
    exact .finish (.value fun _ => .value fun _ => .value fun _ => .value fun _ => .value fun t =>
      t.tableDone_running _)
  | dtConst => exact .finish (.value fun _ => .value fun _ => .value fun _ => s.tableDone_running _)
  | mbRefCopy => exact .finish (.value fun ⟨_, _⟩ => .value fun _ => .value fun t => t.nextMb_running)
  | mbMv a b =>
    exact .finish (.value fun ⟨_, _⟩ => .value fun ⟨_, _⟩ => .value fun _ => .value fun _ => .value fun _ =>
      .ite (fun _ => .ok nofun) fun _ => State.nextMb_running)
  | mbMcCopy =>
    exact .finish (.value fun ⟨_, _⟩ => .value fun _ => .value fun _ => .value fun t => t.nextMb_running)
  | mbMvZero | mbMcSub | mbSub2 | embCells | value v => exact .finish (.value fun _ => .value fun _ => .ok nofun)
  | gate => exact execGate_goesOn
  | s3CopyRef =>
    exact .finish (.value fun _ => .value fun _ => .value fun ⟨_, _⟩ => .value fun t => t.nextSub_running _)
  | s3CopyMv =>
    exact .finish (.value fun _ => .value fun _ => .value fun ⟨_, _⟩ => .value fun ⟨_, _⟩ => .value fun _ =>
      .ite (fun _ => .value fun t => t.nextSub_running _) fun _ => .value fun t => t.nextSub_running _)
  | embSkip1 => exact .finish (.value fun _ => .value fun _ => .error)
  | embLitCell lits =>
    exact .finish (.value fun ⟨⟨_, _⟩, _, _⟩ => .value fun _ => .value fun _ => .value fun t => t.nextSub_running _)
  | w2Lit pair => exact .finish (.value fun _ => .value fun _ => .value fun t => t.w2Next_running)
  | w2Run idx run =>
    exact .finish (.value fun _ => .value fun _ => .value fun _ => .value fun _ => .value fun _ => .value fun _ =>
      .value fun _ => .value fun t => t.w2Next_running)
  | d2Strip1 q => exact .finish (.value fun _ => .value fun _ => .value fun _ => .ok (stripStage_ne_idle .first 0))
  | d2Value code payload => exact execD2Value_goesOn code payload
  | d2Dist flag update => exact execD2Dist_goesOn flag update
  | d2StripSel code kind => exact .finish (.value fun _ => .value fun _ => .value fun _ => .ok nofun)
  | d2Verb bytes => exact .finish (.value fun _ => .value fun _ => .value fun _ => .value fun t => t.d2Next_running)
  | d2Back => exact .finish (.value fun _ => .value fun t => t.d2Next_running)
  | d2Strip2 fromBits mask =>
    have hstage := stripStage_ne_idle (.later mask) 0
    exact .finish (.value fun _ => .value fun _ => .ite (fun _ => .value fun _ => .ok hstage) fun _ =>
      .value fun _ => .ok hstage)
  | d2Tail bytes =>
    exact .finish (.value fun _ => .value fun _ => .value fun _ => .value fun _ => .value fun _ => .value fun t =>
      t.d2Next_running)
  | dispatchIntra =>
    exact .finish (.value fun _ => .value fun ⟨_, _⟩ => .ite (fun _ => .error) fun _ => .value fun _ => .ok nofun)
  | dispatchInter =>
    exact .finish (.value fun _ => .value fun ⟨_, _⟩ => .value fun _ => .value fun _ => .ok nofun)
  | dispatchW2D1 => exact .finish (.value fun _ => .value fun _ => State.startW2D1_running _ _ _)
  | dispatchW2D2 =>
    exact .finish (.value fun _ => .value fun _ => .value fun ⟨_, _⟩ => .value fun _ =>
      .ite (fun _ => .ok nofun) fun _ => State.d2Next_running)
  | dispatchExtra | dispatchMode => exact .finish (.value fun _ => .error)
  | decode packet stride cap => cases hi
  | reset => cases hi

theorem State.orchestrate_running : Yields s.orchestrate State.Running :=
  .value fun ⟨_, _⟩ => .value fun _ => .value fun _ => .value fun _ => .ite (fun _ => .error) fun _ => .ok nofun

theorem State.partialFrame_running : Yields s.partialFrame State.Running := by
  refine .value fun ⟨w, h⟩ => .value fun _ => ?_
  split
  · exact .error
  · split
    · exact .error
    · exact .value fun _ => .ok nofun

theorem State.complete_idle : Yields s.complete fun t => t.seq.stage = .idle :=
  .value fun ⟨_, _⟩ => .value fun _ => .value fun _ => .value fun _ => .ok rfl

/-! ### The step of a running DECODE -/

/-- A rule that keeps the outer items and goes on with the DECODE. -/
theorem KeepsOuter.next {o : Host.Outcome State Fault Refusal} (hk : KeepsOuter s o) (hg : GoesOn s o)
    (h : o = .next t) : t.outer = s.outer ∧ t.Running ∨ ∃ e, t = s.fail e := by
  obtain ⟨a, rfl, ha⟩ := hk
  rcases ha.finish_next h with houter | hfail
  · exact (hg t h).imp_left fun hrun => ⟨houter, hrun⟩
  · exact .inr hfail

/-- A step of a running DECODE goes on with it, completes it, or ends it with an error (46_orchestrator.md R256, R257). -/
theorem step_running (hs : s.Running) (h : step s = .next t) :
    t.outer = s.outer ∧ t.Running ∨ s.seq.stage = .complete ∧ s.complete = .ok t ∨ ∃ e, t = s.fail e := by
  unfold step at h
  split at h
  · exact (KeepsOuter.next (.finish s.orchestrate_keeps) (.finish State.orchestrate_running) h).imp_right .inr
  · exact (KeepsOuter.next (.finish s.partialFrame_keeps) (.finish State.partialFrame_running) h).imp_right .inr
  · obtain ht | ⟨e, -, ht⟩ := finish_eq_next.mp h
    · exact .inr (.inl ⟨‹_›, ht⟩)
    · exact .inr (.inr ⟨e, ht⟩)
  · exact absurd ‹_› hs
  · obtain ⟨i, -, -, -, hi, h⟩ | hfail := State.runNext_busy hs h
    · exact ((exec_keeps i s hi).next (exec_goesOn i s hi) h).imp_right .inr
    · exact .inr (.inr hfail)

theorem errCode_ne_ok (e : Err) : errCode e ≠ .ok := by cases e <;> nofun

end

/-- Settles O59: the three alternatives of `step_running`, with what each of them does to `STATUS`. -/
theorem statusAtEnd : Obligations.StatusAtEnd := by
  unfold Obligations.StatusAtEnd
  intro s t hs _ h
  obtain ⟨houter, hrun⟩ | ⟨hc, ht⟩ | ⟨e, rfl⟩ := step_running hs h
  · exact .inl ⟨congrArg Outer.status houter, congrArg Outer.out houter, congrArg Outer.outBuf houter, hrun⟩
  · obtain ⟨-, hstatus, -, -⟩ := State.complete_eq_ok ht
    exact .inr (.inl ⟨hstatus, hc, State.complete_idle.apply t ht⟩)
  · exact .inr (.inr ⟨rfl, errCode_ne_ok e, rfl, rfl⟩)

end Sys2Proof.Machine

namespace Sys2Proof.Machine

open Sys2Proof

/-! ## Between DECODEs (60_exceptions.md R281) -/

/-- Between DECODEs only a waiting host command gives a step something to do. -/
theorem step_idle {s : State} (hs : s.seq.stage = .idle) : step s = if s.queue = [] then .next s else s.runNext := by
  simp only [step, hs]

/-- Settles O7: with an empty queue, the idle branch of the step answers the state itself. -/
theorem idleStep : Obligations.IdleStep := by
  unfold Obligations.IdleStep
  intro s hs hq
  calc step s
    _ = if s.queue = [] then .next s else s.runNext := step_idle hs
    _ = .next s := if_pos hq

end Sys2Proof.Machine

namespace Sys2Proof.Machine

open Sys2Proof

/-! ## How far a DECODE has come (70_reset_and_hazards.md R296)

A DECODE passes through its control points in one order, but for four loops: over tiles, over macroblocks, over the
values and strips of depth 2, and over the symbols of depth 1.  `State.rank` counts, in this order of weight, the parts
of the DECODE to come, the turns of the loop to come, and the symbols of the turn to come. -/

/-- The unit whose loop a tile belongs to (42_a9ll_intra.md R145, 43_a9ll_inter.md R170). -/
def TileKind.loop : TileKind → SeqUnit
  | .frame => .a9llIntra
  | .within _ => .a9llInter

/-- The unit whose loop a control point belongs to; `.hdr` at those that are passed once. -/
def Stage.loop : Stage → SeqUnit
  | .tile => .a9llIntra
  | .mb => .a9llInter
  | .mvCopy => .a9llInter
  | .gate _ => .a9llInter
  | .sub _ => .a9llInter
  | .pixel _ k => k.loop
  | .w2Index => .w2d1
  | .w2Sym _ => .w2d1
  | .d2Dist _ _ => .w2d2
  | .d2Value _ _ => .w2d2
  | .d2Sel => .w2d2
  | .d2Body _ => .w2d2
  | .d2Tail => .w2d2
  | _ => .hdr

/-- The parts of a DECODE from this control point on, where each loop is one part. -/
def Stage.partsLeft : Stage → Nat
  | .idle => 0
  | .complete => 1
  | .w2Index => 2
  | .w2Sym _ => 2
  | .d2Strip1 => 4
  | .partialFrame => 5
  | .table => 6
  | .dispatch => 7
  | .orchestrate => 8
  | .hdr k => 25 - hdrRank k
  | _ => 3

/-- How many tiles the frame has, or how many macroblocks. -/
def State.tileCount (s : State) : TileKind → Nat
  | .frame => s.fw / 4 * (s.fh / 4)
  | .within _ => mbAcross s.fw * mbAcross s.fh

/-- The turns of its loop that a DECODE has before it: tiles, macroblocks, bytes of `IBUF` to write, bytes of the index
stream to read. -/
def State.turnsOf (s : State) : SeqUnit → Nat
  | .a9llIntra => s.tileCount .frame - s.seq.t
  | .a9llInter => s.tileCount (.within .cells) - s.seq.t
  | .w2d2 => s.size - s.ipos
  | .w2d1 => s.idx.avail
  | _ => 0

def State.turnsLeft (s : State) : Nat := s.turnsOf s.seq.stage.loop

/-- A bound on the symbols of the turn, in sub-block `sb` at pixel `p`: a tile or sub-block has 17 of them, and a
macroblock 16 sub-blocks. -/
def Stage.symbolsLeft (sb p : Nat) : Stage → Nat
  | .mb => 275
  | .mvCopy => 274
  | .gate _ => 273
  | .sub _ => 17 * (15 - sb) + 17
  | .tile => 17 * (15 - sb) + 17
  | .pixel _ _ => 17 * (15 - sb) + (15 - p) + 1
  | .d2Sel => 3
  | .d2Body _ => 2
  | .d2Dist _ _ => 1
  | .w2Sym _ => 1
  | _ => 0

def Seq.symbolsLeft (q : Seq) : Nat := q.stage.symbolsLeft q.s q.p

/-- How far a DECODE is from its end. -/
def State.rank (s : State) : ℕ ×ₗ ℕ ×ₗ ℕ := toLex (s.seq.stage.partsLeft, toLex (s.turnsLeft, s.seq.symbolsLeft))

section

variable {s t u : State} {k : TileKind} {q : Seq}

theorem State.rank_lt_of_parts (h : t.seq.stage.partsLeft < s.seq.stage.partsLeft) : t.rank < s.rank :=
  Prod.Lex.toLex_lt_toLex.mpr (.inl h)

theorem Stage.partsLeft_of_loop {g : Stage} (h : g.loop ≠ .hdr) : g.partsLeft = if g.loop = .w2d1 then 2 else 3 := by
  cases g with
  | pixel pr k => cases k <;> rfl
  | idle | hdr | orchestrate | dispatch | table | partialFrame | complete | d2Strip1 => exact absurd rfl h
  | _ => rfl

/-- Two control points of one loop are in one part of the DECODE. -/
theorem Stage.partsLeft_eq_of_loop {g g' : Stage} (h : g'.loop = g.loop) (hloop : g.loop ≠ .hdr) :
    g'.partsLeft = g.partsLeft := by
  rw [Stage.partsLeft_of_loop hloop, Stage.partsLeft_of_loop (h ▸ hloop), h]

theorem State.rank_lt_of_turns (h : t.seq.stage.loop = s.seq.stage.loop) (hloop : s.seq.stage.loop ≠ .hdr)
    (hturns : t.turnsLeft < s.turnsLeft) : t.rank < s.rank :=
  Prod.Lex.toLex_lt_toLex.mpr (.inr ⟨Stage.partsLeft_eq_of_loop h hloop, Prod.Lex.toLex_lt_toLex.mpr (.inl hturns)⟩)

theorem State.rank_lt_of_symbols (h : t.seq.stage.loop = s.seq.stage.loop) (hloop : s.seq.stage.loop ≠ .hdr)
    (hturns : t.turnsLeft ≤ s.turnsLeft) (hsym : t.seq.symbolsLeft < s.seq.symbolsLeft) : t.rank < s.rank := by
  obtain hlt | heq := Nat.lt_or_eq_of_le hturns
  · exact State.rank_lt_of_turns h hloop hlt
  · exact Prod.Lex.toLex_lt_toLex.mpr
      (.inr ⟨Stage.partsLeft_eq_of_loop h hloop, Prod.Lex.toLex_lt_toLex.mpr (.inr ⟨heq, hsym⟩)⟩)

/-! ### The loops of an A9LL frame -/

/-- `SEQ` and `HDR`, on which the place in the loops of an A9LL frame depends. -/
def State.place (s : State) : Seq × Header := (s.seq, s.hdr)

theorem Evolves.place (h : Evolves s t) : t.place = s.place := h.keeps State.place fun _ => rfl

theorem Evolves.size (h : Evolves s t) : t.size = s.size := h.keeps State.size fun _ => rfl

theorem State.seq_of_place (hu : u.place = s.place) : u.seq = s.seq := congrArg Prod.fst hu

theorem TileKind.loop_ne_hdr (k : TileKind) : k.loop ≠ .hdr := by cases k <;> nofun

theorem State.turnsLeft_of_loop {l : SeqUnit} (h : s.seq.stage.loop = l) : s.turnsLeft = s.turnsOf l :=
  congrArg s.turnsOf h

theorem State.turnsLeft_of_tile (h : s.seq.stage.loop = k.loop) : s.turnsLeft = s.tileCount k - s.seq.t :=
  (State.turnsLeft_of_loop h).trans (by cases k <;> rfl)

theorem State.turnsLeft_of_index (h : s.seq.stage.loop = .w2d1) : s.turnsLeft = s.idx.avail :=
  State.turnsLeft_of_loop h

theorem State.turnsLeft_of_strips (h : s.seq.stage.loop = .w2d2) : s.turnsLeft = s.size - s.ipos :=
  State.turnsLeft_of_loop h

theorem Seq.symbolsLeft_of_stage {g : Stage} (h : q.stage = g) : q.symbolsLeft = g.symbolsLeft q.s q.p :=
  congrArg (Stage.symbolsLeft q.s q.p) h

theorem State.tileCount_of_place (hu : u.place = s.place) : u.tileCount k = s.tileCount k := by
  have hhdr : u.hdr = s.hdr := congrArg Prod.snd hu
  have count := congrArg (fun h => State.tileCount { s with hdr := h } k) hhdr
  cases k <;> exact count

/-- A step inside the tile or macroblock, after work in it. -/
theorem State.rank_sameTile (hu : u.place = s.place) (hs : s.seq.stage.loop = k.loop) (hq : q.stage.loop = k.loop)
    (ht : q.t = s.seq.t) (hsym : q.symbolsLeft < s.seq.symbolsLeft) : State.rank { u with seq := q } < s.rank := by
  refine State.rank_lt_of_symbols (hq.trans hs.symm) (hs ▸ k.loop_ne_hdr) (Nat.le_of_eq ?_) hsym
  calc State.turnsLeft { u with seq := q }
    _ = u.tileCount k - q.t := State.turnsLeft_of_tile hq
    _ = s.tileCount k - s.seq.t := by rw [State.tileCount_of_place hu, ht]
    _ = s.turnsLeft := (State.turnsLeft_of_tile hs).symm

/-- The step to the next tile or macroblock of the frame. -/
theorem State.rank_nextTile (hu : u.place = s.place) (hs : s.seq.stage.loop = k.loop) (hq : q.stage.loop = k.loop)
    (ht : q.t = s.seq.t + 1) (hlt : s.seq.t + 1 < s.tileCount k) : State.rank { u with seq := q } < s.rank := by
  refine State.rank_lt_of_turns (hq.trans hs.symm) (hs ▸ k.loop_ne_hdr) ?_
  calc State.turnsLeft { u with seq := q }
    _ = u.tileCount k - q.t := State.turnsLeft_of_tile hq
    _ = s.tileCount k - (s.seq.t + 1) := by rw [State.tileCount_of_place hu, ht]
    _ < s.tileCount k - s.seq.t := by omega
    _ = s.turnsLeft := (State.turnsLeft_of_tile hs).symm

theorem Stage.one_lt_partsLeft {g : Stage} (h : g.loop ≠ .hdr) : 1 < g.partsLeft := by
  rw [Stage.partsLeft_of_loop h]
  split <;> decide

theorem State.rank_gotoComplete (hs : s.seq.stage.loop ≠ .hdr) : u.gotoComplete.rank < s.rank :=
  State.rank_lt_of_parts (Stage.one_lt_partsLeft hs)

theorem State.nextTile_rank (hu : u.place = s.place) (hs : s.seq.stage.loop = .a9llIntra) :
    Yields u.nextTile (·.rank < s.rank) := by
  have hseq := State.seq_of_place hu
  refine .bind u.dims_yields ?_
  rintro _ ⟨-, rfl⟩
  refine .ite (fun hlt => .ok (State.rank_nextTile (k := .frame) hu hs rfl (congrArg (·.t + 1) hseq) ?_)) fun _ =>
    .ok (State.rank_gotoComplete (by simp [hs]))
  rw [← State.tileCount_of_place hu, ← hseq]
  exact hlt

theorem State.nextMb_rank (hu : u.place = s.place) (hs : s.seq.stage.loop = .a9llInter) :
    Yields u.nextMb (·.rank < s.rank) := by
  have hseq := State.seq_of_place hu
  refine .bind u.dims_yields ?_
  rintro _ ⟨-, rfl⟩
  refine .ite (fun hlt => .ok (State.rank_nextTile (k := .within .cells) hu hs rfl (congrArg (·.t + 1) hseq) ?_)) fun _ =>
    .ok (State.rank_gotoComplete (by simp [hs]))
  rw [← State.tileCount_of_place hu, ← hseq]
  exact hlt

/-- A later sub-block is one of the sixteen (43_a9ll_inter.md R176, R177, R187). -/
theorem subAfter_later {k : SubKind} {w h t sb i : Nat} (hk : subAfter k w h t sb = some i) : sb < i ∧ i ≤ 15 := by
  have next (hk : (if sb + 1 < 16 then some (sb + 1) else none) = some i) : sb < i ∧ i ≤ 15 := by
    split at hk
    · cases hk; omega
    · cases hk
  cases k with
  | cells =>
    obtain ⟨hlt, hle, -⟩ := subAfter_cells_eq_some.mp hk
    exact ⟨hlt, hle⟩
  | sub3 => exact next hk
  | sub2 => exact next hk

/-- The symbols of the later sub-blocks are to come. -/
abbrev Seq.InTile (q : Seq) : Prop := 17 * (15 - q.s) < q.symbolsLeft

theorem State.nextSub_rank (k : SubKind) (hu : u.place = s.place) (hs : s.seq.stage.loop = .a9llInter)
    (hin : s.seq.InTile) : Yields (u.nextSub k) (·.rank < s.rank) := by
  have hseq := State.seq_of_place hu
  refine .value fun ⟨w, h⟩ => ?_
  dsimp only
  split
  · rename_i i hi
    obtain ⟨hlt, hle⟩ := subAfter_later hi
    refine .ok (State.rank_sameTile (k := .within k) hu hs rfl (congrArg (·.t) hseq) (Nat.lt_of_le_of_lt ?_ hin))
    rw [hseq] at hlt
    show 17 * (15 - i) + 17 ≤ 17 * (15 - s.seq.s)
    omega
  · exact State.nextMb_rank hu hs

theorem State.tileDone_rank (hu : u.place = s.place) (hs : s.seq.stage.loop = k.loop) (hin : s.seq.InTile) :
    Yields (u.tileDone k) (·.rank < s.rank) := by
  cases k with
  | frame => exact State.nextTile_rank hu hs
  | within k => exact State.nextSub_rank k hu hs hin

theorem State.pixelDone_rank {pr : Predictor} (hu : u.place = s.place) (hs : s.seq.stage = .pixel pr k) :
    Yields (u.pixelDone k) (·.rank < s.rank) := by
  have hseq := State.seq_of_place hu
  have hloop : s.seq.stage.loop = k.loop := by rw [hs]; rfl
  refine .ite (fun hp => .ok (State.rank_sameTile hu hloop ?_ ?_ ?_)) fun _ => State.tileDone_rank hu hloop ?_
  · rw [hseq]; exact hloop
  · rw [hseq]
  · rw [hseq] at hp ⊢
    rw [Seq.symbolsLeft_of_stage hs, Seq.symbolsLeft_of_stage (q := { s.seq with p := s.seq.p + 1 }) hs]
    show 17 * (15 - s.seq.s) + (15 - (s.seq.p + 1)) + 1 < 17 * (15 - s.seq.s) + (15 - s.seq.p) + 1
    omega
  · show 17 * (15 - s.seq.s) < s.seq.symbolsLeft
    rw [Seq.symbolsLeft_of_stage hs]
    show 17 * (15 - s.seq.s) < 17 * (15 - s.seq.s) + (15 - s.seq.p) + 1
    omega

/-- The control point at which a tile of this kind begins. -/
def TileKind.start : TileKind → Stage
  | .frame => .tile
  | .within k => .sub k

theorem Stage.loop_start (hs : s.seq.stage = k.start) : s.seq.stage.loop = k.loop := by
  rw [hs]
  cases k <;> rfl

theorem Seq.symbolsLeft_start (hs : q.stage = k.start) : q.symbolsLeft = 17 * (15 - q.s) + 17 :=
  (Seq.symbolsLeft_of_stage hs).trans (by cases k <;> rfl)

theorem Seq.inTile_start (hs : q.stage = k.start) : q.InTile := by
  show 17 * (15 - q.s) < q.symbolsLeft
  rw [Seq.symbolsLeft_start hs]
  omega

theorem State.openTile_rank {pr : Predictor} {mask : Half} (hu : u.place = s.place) (hs : s.seq.stage = k.start) :
    Yields (u.openTile pr k mask) (·.rank < s.rank) := by
  refine .bind (u.skipBytes_evolves .maskc 2) fun t ht => .ok ?_
  have htu : t.place = s.place := (ht.place).trans hu
  have hseq := State.seq_of_place htu
  refine State.rank_sameTile htu (Stage.loop_start hs) rfl (congrArg (·.t) hseq) ?_
  rw [Seq.symbolsLeft_start hs, State.mark_seq, ← hseq]
  show 17 * (15 - t.seq.s) + (15 - 0) + 1 < 17 * (15 - t.seq.s) + 17
  omega

/-- A mode of `n` bits, then a predicted tile. -/
theorem State.openMode_rank {pr : Predictor} {mask : Half} (n : Nat) (hs : s.seq.stage = k.start) :
    Yields (do let s ← s.skipBits .bit1 n; s.openTile pr k mask) (·.rank < s.rank) :=
  .bind (s.skipBits_evolves .bit1 n) fun _ ht => State.openTile_rank (ht.place) hs

/-- A mode of `n` bits, then the edge tile. -/
theorem State.edgeMode_rank (n : Nat) (hs : s.seq.stage = k.start) :
    Yields (do let s ← s.skipBits .bit1 n; s.edgeTile k) (·.rank < s.rank) := by
  have hin : s.seq.InTile := Seq.inTile_start hs
  have done {u : State} (hu : Evolves s u) : Yields (u.tileDone k) (·.rank < s.rank) :=
    State.tileDone_rank (hu.place) (Stage.loop_start hs) hin
  exact .bind (s.skipBits_evolves .bit1 n) fun t ht => .value fun ⟨x0, y0⟩ => .ite (fun _ => done ht) fun _ =>
    .bind (t.fillRect_evolves ..) fun _ hu => done (ht.trans hu)

/-- A step to a later control point of the macroblock, after work in it. -/
theorem State.rank_goto {g : Stage} (hu : u.place = s.place) (hs : s.seq.stage.loop = .a9llInter)
    (hg : g.loop = .a9llInter) (hsym : Seq.symbolsLeft { s.seq with stage := g } < s.seq.symbolsLeft) :
    (u.goto g).rank < s.rank := by
  have hseq := State.seq_of_place hu
  exact State.rank_sameTile (k := .within .cells) hu hs hg (congrArg (·.t) hseq) (hseq ▸ hsym)

end
end Sys2Proof.Machine

namespace Sys2Proof.Machine

open Sys2Proof

/-! ## Every symbol brings a DECODE nearer to its end -/

/-- The outcome is nearer to the end of the DECODE than `s`, if it is a next state. -/
def Descends (s : State) (o : Host.Outcome State Fault Refusal) : Prop := ∀ t, o = .next t → t.rank < s.rank

section

variable {s t u : State}

theorem Stage.partsLeft_pos {g : Stage} (h : g ≠ .idle) : 0 < g.partsLeft := by
  cases g with
  | idle => exact absurd rfl h
  | hdr k => cases k <;> decide
  | _ => exact Nat.succ_pos _

theorem Descends.finish {a : Act State} (hs : s.Running) (ha : Yields a (·.rank < s.rank)) :
    Descends s (finish s a) := by
  intro t ht
  obtain ht | ⟨e, -, rfl⟩ := finish_eq_next.mp ht
  · exact ha.apply t ht
  · exact State.rank_lt_of_parts (Stage.partsLeft_pos hs)

/-! ### The header front end, and the way to the first loop -/

/-- The front end only goes forward (40_header.md R118). -/
theorem hdrNext_partsLeft (h : Header) (k : HdrStep) : (hdrNext h k).partsLeft < (Stage.hdr k).partsLeft := by
  cases k <;> simp only [hdrNext] <;> (repeat' split) <;> decide

theorem State.hdrDone_rank {k : HdrStep} (hs : s.seq.stage = .hdr k) : Yields (u.hdrDone k) (·.rank < s.rank) :=
  .value fun _ => .ok (State.rank_lt_of_parts (hs ▸ hdrNext_partsLeft u.hdr k))

theorem execHdrAlphaModern_descends (hrun : s.Running) (raw : Half) (mode pad : Byte) :
    Descends s (execHdrAlphaModern raw mode pad s) := by
  refine .finish hrun ?_
  split
  · exact .value fun _ => .value fun _ => .value fun _ => State.hdrDone_rank ‹_›
  · exact .value fun _ => .ite (fun _ => .value fun _ => State.hdrDone_rank ‹_›) fun _ => .value fun _ =>
      State.hdrDone_rank ‹_›
  · exact .error

theorem State.w2Next_parts (s : State) : Yields s.w2Next fun t => t.seq.stage.partsLeft ≤ 2 :=
  .value fun _ => .value fun _ => .ite (fun _ => .ok (Nat.le_succ 1)) fun _ => .value fun _ =>
    .ite (fun _ => .ok (Nat.le_succ 1)) fun _ => .ok (Nat.le_refl 2)

theorem State.startW2D1_parts (s : State) (mem : CurMem) (b e : Nat) :
    Yields (s.startW2D1 mem b e) fun t => t.seq.stage.partsLeft ≤ 2 :=
  .value fun _ => .value fun ⟨_, _⟩ => State.w2Next_parts _

theorem State.d2Next_parts (s : State) : Yields s.d2Next fun t => t.seq.stage.partsLeft ≤ 3 :=
  .value fun _ => .value fun _ => .ite (fun _ => .ok (Nat.le_refl 3)) fun _ => .ite (fun _ => .ok (Nat.le_refl 3))
    fun _ => (s.startW2D1_parts ..).mono fun _ h => Nat.le_succ_of_le h

theorem afterTable_parts (u : SeqUnit) (w h : Nat) : (afterTable u w h).partsLeft ≤ 5 := by
  unfold afterTable
  split
  · exact by decide
  · split <;> exact by decide

theorem State.tableDone_rank {dt : List Half} (hs : s.seq.stage = .table) :
    Yields (u.tableDone dt) (·.rank < s.rank) :=
  .value fun ⟨_, _⟩ => .ok (State.rank_lt_of_parts (hs ▸ Nat.lt_succ_of_le (afterTable_parts _ _ _)))

/-- What the dispatch leads to: a table, the first symbol of depth 2, or a loop of W2 (46_orchestrator.md R259). -/
theorem State.rank_lt_of_dispatch (hs : s.seq.stage = .dispatch) (ht : t.seq.stage.partsLeft ≤ 6) : t.rank < s.rank :=
  State.rank_lt_of_parts (hs ▸ Nat.lt_succ_of_le ht)

theorem execDispatchW2D2_descends (hrun : s.Running) : Descends s (execDispatchW2D2 s) := by
  refine .finish hrun (.bind (s.expectBranch_yields _) fun _ hs => .value fun _ => .value fun ⟨_, _⟩ =>
    .value fun _ => .ite (fun _ => .ok (State.rank_lt_of_dispatch hs (show 4 ≤ 6 by decide))) fun _ => ?_)
  exact (State.d2Next_parts _).mono fun _ h => State.rank_lt_of_dispatch hs (h.trans (by decide))

/-! ### Pixels and macroblocks -/

theorem State.residual_rank (c i : Nat) : Yields (s.residual c i) (·.rank < s.rank) :=
  .bind (s.pixelHere_yields false) fun ⟨_, _, _, _⟩ hs => .bind (s.skipBits_evolves .bit2 3) fun t ht =>
    .bind (t.skipBits_evolves .bit1 _) fun u hu => .value fun _ => .value fun _ =>
      .bind (u.putPixel_evolves ..) fun _ hv => State.pixelDone_rank (((ht.trans hu).trans hv).place) hs

theorem execPixCopy_descends (hrun : s.Running) : Descends s (execPixCopy s) :=
  .finish hrun (.bind (s.pixelHere_yields true) fun ⟨_, _, _, _⟩ hs => .value fun _ =>
    .bind (s.putPixel_evolves ..) fun _ ht => State.pixelDone_rank (ht.place) hs)

theorem execPixLit_descends (hrun : s.Running) (lit : Half) : Descends s (execPixLit lit s) :=
  .finish hrun (.bind (s.pixelHere_yields false) fun ⟨_, _, _, _⟩ hs => .bind (s.skipBits_evolves .bit2 3) fun t ht =>
    .bind (t.skipBytes_evolves .litc 2) fun u hu => .bind (u.putPixel_evolves ..) fun _ hv =>
      State.pixelDone_rank (((ht.trans hu).trans hv).place) hs)

theorem Stage.loop_mb (hs : s.seq.stage = .mb) : s.seq.stage.loop = .a9llInter := by rw [hs]; rfl

theorem Stage.loop_mvCopy (hs : s.seq.stage = .mvCopy) : s.seq.stage.loop = .a9llInter := by rw [hs]; rfl

/-- From the code of a macroblock to its copy bit or its gate. -/
theorem State.rank_goto_of_mb {g : Stage} (hu : u.place = s.place) (hs : s.seq.stage = .mb)
    (hg : g = .mvCopy ∨ ∃ k, g = .gate k) : (u.goto g).rank < s.rank := by
  have hleft : s.seq.symbolsLeft = 275 := Seq.symbolsLeft_of_stage hs
  obtain rfl | ⟨k, rfl⟩ := hg
  · exact State.rank_goto hu (Stage.loop_mb hs) rfl (hleft ▸ (show 274 < 275 by decide))
  · exact State.rank_goto hu (Stage.loop_mb hs) rfl (hleft ▸ (show 273 < 275 by decide))

theorem execMbMv_descends (hrun : s.Running) (a : BitVec 8) (b : BitVec 7) : Descends s (execMbMv a b s) :=
  .finish hrun (.bind (s.mbHere_yields true) fun ⟨_, _⟩ ⟨hs, _⟩ => .value fun ⟨_, _⟩ =>
    .bind (s.skipBits_evolves .bit1 3) fun t ht => .bind (t.skipBits_evolves .bit1 8) fun u hu =>
      .bind (u.skipBits_evolves .bit1 7) fun v hv =>
        have hplace : v.place = s.place := ((ht.trans hu).trans hv).place
        .ite (fun _ => .ok (State.rank_goto_of_mb hplace hs (.inl rfl))) fun _ =>
          State.nextMb_rank hplace (Stage.loop_mb hs))

theorem execGate_descends (hrun : s.Running) : Descends s (execGate s) := by
  refine .finish hrun ?_
  split
  · rename_i k hs
    refine .value fun _ => .value fun _ => .ok (State.rank_sameTile (k := .within k) rfl ?_ rfl rfl ?_)
    · rw [hs]; rfl
    · rw [Seq.symbolsLeft_of_stage hs]
      show 17 * (15 - 0) + 17 < 273
      decide
  · exact .error

/-! ### Sub-blocks and cells -/

theorem State.sub2Here_start (s : State) : Yields s.sub2Here fun k => s.seq.stage = k.start := by
  unfold State.sub2Here
  split
  · exact .ok ‹_›
  · exact .value fun ⟨_, _⟩ => .value fun _ => .ok ‹_›
  · exact .error

/-- A whole sub-block or cell, and the step to the next one. -/
theorem Evolves.nextSub_rank {k : SubKind} (h : Evolves s u) (hs : s.seq.stage = .sub k) :
    Yields (u.nextSub k) (·.rank < s.rank) := by
  have hstart : s.seq.stage = (TileKind.within k).start := hs
  exact State.nextSub_rank k (h.place) (Stage.loop_start hstart) (Seq.inTile_start hstart)

theorem execS3CopyMv_descends (hrun : s.Running) : Descends s (execS3CopyMv s) :=
  .finish hrun (.bind s.expectSub3_yields fun _ hs => .bind (s.skipBits_evolves .bit1 3) fun t ht =>
    .value fun ⟨_, _⟩ => .value fun ⟨_, _⟩ => .value fun _ =>
      .ite (fun _ => .bind (t.copyRef_evolves ..) fun _ hu => (ht.trans hu).nextSub_rank hs) fun _ => ht.nextSub_rank hs)

theorem execEmbLitCell_descends (hrun : s.Running) (lits : List Half) : Descends s (execEmbLitCell lits s) :=
  .finish hrun (.bind s.litCellHere_yields fun ⟨⟨_, _⟩, _, _⟩ hs => .value fun _ =>
    .bind (s.skipBytes_evolves .edgelit _) fun t ht => .bind (t.fillRect_evolves ..) fun _ hu =>
      (ht.trans hu).nextSub_rank hs)

/-! ### Depth 1 -/

theorem ByteCursor.avail_after (c : ByteCursor) (n : Nat) : (c.after n).avail = c.avail - n := by
  simp only [ByteCursor.avail, ByteCursor.after]
  omega

/-- No read of a depth-1 frame gives the index stream bytes back. -/
theorem State.skipBytes_idx_le (s : State) (id : ByteCur) (n : Nat) :
    Yields (s.skipBytes id n) fun t => t.idx.avail ≤ s.idx.avail := by
  have after (c : ByteCursor) : (c.after n).avail ≤ c.avail := by rw [ByteCursor.avail_after]; omega
  refine ⟨fun t ht => ?_⟩
  obtain ⟨c, hc, -, rfl⟩ := State.skipBytes_eq_ok ht
  cases id with
  | idx =>
    obtain ⟨-, rfl⟩ := State.rd_eq_ok.mp hc
    exact after s.idx
  | run =>
    simp only [State.byteCur, State.setByteCur] at hc ⊢
    split at hc
    · obtain ⟨-, rfl⟩ := State.rd_eq_ok.mp hc
      exact after s.idx
    · exact Nat.le_refl _
  | _ => exact Nat.le_refl _

/-- An index value takes bytes of the index stream (44_w2_depth1.md R202, R203). -/
theorem execValue_descends (hrun : s.Running) (v : Nat) : Descends s (execValue v s) := by
  refine .finish hrun (.bind (expectStage_yields s .w2Index) fun _ hs => .bind (Q := fun t =>
    t.idx.avail < s.idx.avail) ⟨fun t ht => ?_⟩ fun t ht => .ok ?_)
  · obtain ⟨c, hc, hn, rfl⟩ := State.skipBytes_eq_ok ht
    obtain ⟨-, rfl⟩ := State.rd_eq_ok.mp hc
    show (s.idx.after _).avail < s.idx.avail
    rw [ByteCursor.avail_after]
    omega
  · have hloop : s.seq.stage.loop = .w2d1 := by rw [hs]; rfl
    refine State.rank_lt_of_turns hloop.symm (hloop ▸ nofun) ?_
    rw [State.turnsLeft_of_index hloop, State.turnsLeft_of_index rfl]
    exact ht

/-- After the rest of a depth-1 symbol: completion, or the next index value. -/
theorem State.w2Next_rank {idx : Nat} (hs : s.seq.stage = .w2Sym idx) (hidx : u.idx.avail ≤ s.idx.avail) :
    Yields u.w2Next (·.rank < s.rank) := by
  have hloop : s.seq.stage.loop = .w2d1 := by rw [hs]; rfl
  have hdone : u.gotoComplete.rank < s.rank := State.rank_gotoComplete (hloop ▸ nofun)
  refine .value fun _ => .value fun _ => .ite (fun _ => .ok hdone) fun _ => .value fun _ => .ite (fun _ => .ok hdone)
    fun _ => .ok (State.rank_lt_of_symbols hloop.symm (hloop ▸ nofun) ?_ ?_)
  · rw [State.turnsLeft_of_index hloop, State.turnsLeft_of_index rfl]
    exact hidx
  · rw [Seq.symbolsLeft_of_stage hs]
    exact Nat.one_pos

theorem Emitted.idx (h : Emitted s t) : t.idx = s.idx := by rw [h.rest]

theorem execW2Lit_descends (hrun : s.Running) (q : Word) : Descends s (execW2Lit q s) :=
  .finish hrun (.bind (expectStage_yields s (.w2Sym 0)) fun _ hs => .bind (s.skipBytes_idx_le .lit 4) fun t ht =>
    .bind (t.emitPair_yields q) fun _ hu => State.w2Next_rank hs (hu.idx ▸ ht))

theorem execW2Run_descends (hrun : s.Running) (idx run : Nat) : Descends s (execW2Run idx run s) := by
  refine .finish hrun (.bind (expect_yields _) fun _ hs => .value fun _ => .value fun _ => .value fun _ =>
    .bind (State.skipBytes_idx_le _ .run _) fun t ht => .value fun _ => .value fun _ =>
      .bind (State.emitPairs_yields _ _ _) fun u hu => ?_)
  exact State.w2Next_rank (of_decide_eq_true (Bool.and_eq_true_iff.mp hs).1) (hu.idx ▸ ht)

/-! ### Depth 2 -/

/-- Bytes have been appended to `IBUF`, and the loop of depth 2 goes on at `g`. -/
theorem Appended.rank_goto {n : Nat} {g : Stage} (h : Appended n s u) (hn : 0 < n) (hfit : s.ipos + n ≤ s.size)
    (hs : s.seq.stage.loop = .w2d2) (hg : g.loop = .w2d2) : (u.goto g).rank < s.rank := by
  have hloop : (u.goto g).seq.stage.loop = .w2d2 := hg
  refine State.rank_lt_of_turns (hloop.trans hs.symm) (hs ▸ nofun) ?_
  rw [State.turnsLeft_of_strips hs, State.turnsLeft_of_strips hloop, State.goto_ipos, State.goto_size, h.2,
    h.1.size]
  omega

/-- Nothing has been appended, and a later symbol of the strip is next. -/
theorem Appended.rank_goto_zero {g : Stage} (h : Appended 0 s u) (hs : s.seq.stage.loop = .w2d2) (hg : g.loop = .w2d2)
    (hsym : Seq.symbolsLeft { s.seq with stage := g } < s.seq.symbolsLeft) : (u.goto g).rank < s.rank := by
  have hloop : (u.goto g).seq.stage.loop = .w2d2 := hg
  refine State.rank_lt_of_symbols (hloop.trans hs.symm) (hs ▸ nofun) (Nat.le_of_eq ?_) ?_
  · rw [State.turnsLeft_of_strips hs, State.turnsLeft_of_strips hloop, State.goto_ipos, State.goto_size, h.2,
      h.1.size, Nat.add_zero]
  · rwa [State.goto_seq, State.seq_of_place h.1.place]

theorem Appended.d2Next_rank {n : Nat} (h : Appended n s u) (hn : 0 < n) (hfit : s.ipos + n ≤ s.size)
    (hs : s.seq.stage.loop = .w2d2) : Yields u.d2Next (·.rank < s.rank) := by
  refine .value fun _ => .value fun _ => .ite (fun _ => .ok (h.rank_goto hn hfit hs rfl)) fun _ =>
    .ite (fun _ => .ok (h.rank_goto hn hfit hs rfl)) fun _ => (u.startW2D1_parts ..).mono fun t ht => ?_
  have hparts : s.seq.stage.partsLeft = 3 := Stage.partsLeft_eq_of_loop (g := .d2Sel) hs nofun
  exact State.rank_lt_of_parts (hparts ▸ Nat.lt_succ_of_le ht)

theorem loop_stripStage (strip : Strip) (j : Nat) : (stripStage strip j).loop = .w2d2 := by
  unfold stripStage
  split <;> rfl

/-- A value of two bytes has been appended. -/
theorem Appended.valueDone_rank {strip : Strip} {j : Nat} (h : Appended 2 s u) (hs : s.seq.stage = .d2Value strip j)
    (hok : s.stageOk = true) : Yields (u.valueDone strip j) (·.rank < s.rank) := by
  obtain ⟨-, hfits⟩ := (State.stageOk_d2Value hs).mp hok
  obtain ⟨hj, hfits⟩ := State.stripFits_iff.mp hfits
  have hfit : s.ipos + 2 ≤ s.size := by omega
  have hloop : s.seq.stage.loop = .w2d2 := by rw [hs]; rfl
  exact .ite (fun _ => .ok (h.rank_goto Nat.two_pos hfit hloop (loop_stripStage _ _))) fun _ =>
    h.d2Next_rank Nat.two_pos hfit hloop

theorem Reads.ipos (h : Reads s t) : t.ipos = s.ipos := h.keeps State.ipos fun _ => rfl

theorem Reads.appended (h : Reads s t) : Appended 0 s t := ⟨h.evolves, h.ipos⟩

theorem execD2Strip1_descends (hrun : s.Running) (q : Word) : Descends s (execD2Strip1 q s) :=
  .finish hrun (.bind (s.d2Here_yields _) fun _ hs => .value fun _ => .value fun _ => .ok (State.rank_lt_of_parts
    (hs ▸ Nat.lt_succ_self 3)))

theorem execD2Dist_descends (hrun : s.Running) (flag : Bool) (update : DistUpdate) :
    Descends s (execD2Dist flag update s) := by
  refine .finish hrun ?_
  split
  · rename_i strip j hs
    have done {t : State} (ht : Appended 0 s t) : (t.goto (.d2Value strip j)).rank < s.rank := by
      refine ht.rank_goto_zero (by rw [hs]; rfl) rfl ?_
      rw [Seq.symbolsLeft_of_stage hs]
      exact Nat.one_pos
    have update {t : State} (ht : Reads s t) (v : Nat) : Appended 0 s (State.mark { t with dist := v } .dist) :=
      ⟨(ht.evolves.trans (evolves_update id id t.mask t.k t.run t.ipos v t.entry)).trans (evolves_mark _ _),
        ht.ipos⟩
    refine .value fun d => .bind (s.skipBits_yields .d2b 1) fun t ht => ?_
    dsimp only
    split
    · exact .ok (done ht.appended)
    · exact .bind (t.skipBytes_yields .d2dist 1) fun u hu => .ok (done (update (ht.trans hu) _))
    · exact .bind (t.skipBytes_yields .d2dist 2) fun u hu => .ok (done (update (ht.trans hu) _))
    · exact .error
  · exact .error

theorem execD2Value_descends (hrun : s.Running) (hok : s.stageOk = true) (code : List Bool) (payload : D2Payload) :
    Descends s (execD2Value code payload s) := by
  refine .finish hrun ?_
  split
  · refine .value fun d => .bind (s.skipBits_yields .d2b _) fun t ht => ?_
    cases payload with
    | backref =>
      exact .value fun _ => .bind (t.appendBack_yields 2) fun u hu => (hu.afterReads ht).valueDone_rank ‹_› hok
    | xor key =>
      refine .value fun _ => .bind (t.skipBytes_yields .d2key 1) fun u hu => ?_
      split
      · exact .error
      · exact .value fun _ => .bind (u.appendIbuf_yields _) fun v hv =>
          (hv.afterReads (ht.trans hu)).valueDone_rank ‹_› hok
    | lit v =>
      exact .value fun _ => .bind (t.skipBytes_yields .d2l 2) fun u hu => .bind (u.appendIbuf_yields _) fun v hv =>
        (hv.afterReads (ht.trans hu)).valueDone_rank ‹_› hok
  · exact .error

theorem execD2StripSel_descends (hrun : s.Running) (code : List Bool) (kind : StripKind) :
    Descends s (execD2StripSel code kind s) := by
  refine .finish hrun (.bind (s.d2Here_yields _) fun _ hs => .value fun _ =>
    .bind (s.skipBits_yields .d2b _) fun _ ht => .ok (ht.appended.rank_goto_zero (by rw [hs]; rfl) rfl ?_))
  rw [Seq.symbolsLeft_of_stage hs]
  exact Nat.lt_succ_self 2

/-- Sixteen bytes of a later strip have been appended. -/
theorem Appended.strip_rank {kind : StripKind} (h : Appended 16 s u) (hs : s.seq.stage = .d2Body kind)
    (hok : s.stageOk = true) : Yields u.d2Next (·.rank < s.rank) :=
  h.d2Next_rank (Nat.zero_lt_succ 15) ((State.stageOk_d2Body hs).mp hok).2 (by rw [hs]; rfl)

theorem execD2Verb_descends (hrun : s.Running) (hok : s.stageOk = true) (bytes : List Byte) :
    Descends s (execD2Verb bytes s) := by
  refine .finish hrun (.bind (s.d2Here_yields _) fun _ hs => .bind (expect_yields _) fun _ hlen =>
    .bind (s.skipBytes_yields .d2l 16) fun t ht => .bind (t.appendIbuf_yields bytes) fun u hu => ?_)
  have hlen : bytes.length = 16 := beq_iff_eq.mp hlen
  exact ((hlen ▸ hu).afterReads ht).strip_rank hs hok

theorem execD2Back_descends (hrun : s.Running) (hok : s.stageOk = true) : Descends s (execD2Back s) :=
  .finish hrun (.bind (s.d2Here_yields _) fun _ hs => .bind (s.appendBack_yields 16) fun _ ht => ht.strip_rank hs hok)

theorem execD2Strip2_descends (hrun : s.Running) (fromBits : Bool) (mask : Byte) :
    Descends s (execD2Strip2 fromBits mask s) := by
  refine .finish hrun (.bind (s.d2Here_yields _) fun _ hs => .value fun _ => ?_)
  have done {t : State} (ht : Reads s t) : (t.goto (stripStage (.later mask) 0)).rank < s.rank := by
    refine ht.appended.rank_goto_zero (by rw [hs]; rfl) rfl ?_
    rw [Seq.symbolsLeft_of_stage hs]
    exact Nat.lt_succ_self 1
  exact .ite (fun _ => .bind (s.skipBits_yields .d2b 8) fun t ht => .ok (done ht)) fun _ =>
    .bind (s.skipBytes_yields .d2mask 1) fun t ht => .ok (done ht)

theorem execD2Tail_descends (hrun : s.Running) (hok : s.stageOk = true) (bytes : List Byte) :
    Descends s (execD2Tail bytes s) := by
  refine .finish hrun (.bind (s.d2Here_yields _) fun _ hs => .bind (s.rd_yields _ _) ?_)
  rintro _ ⟨-, rfl⟩
  refine .bind (s.rd_yields _ _) ?_
  rintro _ ⟨-, rfl⟩
  refine .bind (expect_yields _) fun _ hlen => .bind (s.skipBytes_yields .d2l _) fun t ht =>
    .bind (t.appendIbuf_yields bytes) fun u hu => ?_
  obtain ⟨-, hlt, -⟩ := (State.stageOk_d2Tail hs).mp hok
  have hlen : bytes.length = s.size - s.ipos := beq_iff_eq.mp (Bool.and_eq_true_iff.mp hlen).1
  exact (hu.afterReads ht).d2Next_rank (by omega) (by omega) (by rw [hs]; rfl)

/-! ### Every meaning -/

/-- Every meaning but those of the host's commands brings a DECODE nearer to its end. -/
theorem exec_descends (i : Instr) (hi : i.isCommand = false) (hrun : s.Running) (hok : s.stageOk = true) :
    Descends s (exec i s) := by
  have atHdr (k : HdrStep) : Yields (s.expectHdr k) fun _ => s.seq.stage = .hdr k := expectStage_yields s (.hdr k)
  cases i with
  | hdrVersion v => exact .finish hrun (.bind (atHdr _) fun _ hs => State.hdrDone_rank hs)
  | hdrLen | hdrRawType v | hdrFlagsAB a b | hdrDims w h | hdrFlagsCD c d | hdrAlphaPresent | hdrSize | hdrQpGate =>
    exact .finish hrun (.bind (atHdr _) fun _ hs => .value fun _ => State.hdrDone_rank hs)
  | hdrMagic =>
    exact .finish hrun (.bind (atHdr _) fun _ hs => .value fun _ => .value fun _ => State.hdrDone_rank hs)
  | hdrAlphaLegacy raw | hdrAnim total current delay noRepeat pad | hdrIndex pad count | hdrXval =>
    exact .finish hrun (.bind (atHdr _) fun _ hs => .value fun _ => .value fun _ => .value fun _ =>
      State.hdrDone_rank hs)
  | hdrAlphaModern raw mode pad => exact execHdrAlphaModern_descends hrun raw mode pad
  | hdrDataEnd =>
    exact .finish hrun (.bind (atHdr _) fun _ hs => .value fun _ => .ite (fun _ => .value fun _ =>
      State.hdrDone_rank hs) fun _ => .value fun _ => State.hdrDone_rank hs)
  | hdrFirst =>
    exact .finish hrun (.bind (atHdr _) fun _ hs => .value fun _ => .ite (fun _ => .value fun _ =>
      State.hdrDone_rank hs) fun _ => State.hdrDone_rank hs)
  | tile2Dir0 m | tile2Dir1 m | tile2Dir2 m =>
    exact .finish hrun (.bind (expectStage_yields s .tile) fun _ hs => State.openMode_rank 2 hs)
  | tile2Edge => exact .finish hrun (.bind (expectStage_yields s .tile) fun _ hs => State.edgeMode_rank 2 hs)
  | pixCopy => exact execPixCopy_descends hrun
  | pixRes0 i | pixRes1 i | pixRes2 i | pixRes3 i | pixRes4 i | pixRes5 i | pixRes6 i =>
    exact .finish hrun (State.residual_rank _ _)
  | pixLit lit => exact execPixLit_descends hrun lit
  | dtab signs mags =>
    exact .finish hrun (.bind (expect_yields _) fun _ hs => .value fun _ => .value fun _ => .value fun _ =>
      .value fun _ => State.tableDone_rank (of_decide_eq_true (Bool.and_eq_true_iff.mp hs).1))
  | dtConst =>
    exact .finish hrun (.bind (expectStage_yields s .table) fun _ hs => .value fun _ => .value fun _ =>
      State.tableDone_rank hs)
  | mbRefCopy =>
    exact .finish hrun (.bind (s.mbHere_yields true) fun ⟨_, _⟩ ⟨hs, _⟩ => .bind (s.skipBits_evolves .bit1 2) fun t ht =>
      .bind (t.copyRef_evolves ..) fun _ hu => State.nextMb_rank ((ht.trans hu).place) (Stage.loop_mb hs))
  | mbMvZero =>
    exact .finish hrun (.bind (s.mbHere_yields true) fun ⟨_, _⟩ ⟨hs, _⟩ => .bind (s.skipBits_evolves .bit1 3) fun t ht =>
      .ok (State.rank_goto_of_mb (u := State.mark { t with mv := _ } .mv) (ht.place) hs (.inl rfl)))
  | mbMv a b => exact execMbMv_descends hrun a b
  | mbMcCopy =>
    exact .finish hrun (.bind s.mvHere_yields fun ⟨_, _⟩ hs => .value fun _ => .bind (s.skipBits_evolves .bit1 1)
      fun t ht => .bind (t.copyRef_evolves ..) fun _ hu =>
        State.nextMb_rank ((ht.trans hu).place) (Stage.loop_mvCopy hs))
  | mbMcSub =>
    exact .finish hrun (.bind s.mvHere_yields fun _ hs => .bind (s.skipBits_evolves .bit1 1) fun t ht =>
      .ok (State.rank_goto (ht.place) (Stage.loop_mvCopy hs) rfl
        (by rw [Seq.symbolsLeft_of_stage hs]; exact Nat.lt_succ_self 273)))
  | mbSub2 =>
    exact .finish hrun (.bind (s.mbHere_yields true) fun ⟨_, _⟩ ⟨hs, _⟩ => .bind (s.skipBits_evolves .bit1 1) fun t ht =>
      .ok (State.rank_goto_of_mb (ht.place) hs (.inr ⟨_, rfl⟩)))
  | gate => exact execGate_descends hrun
  | s3Dir0 m | s3Dir1 m | s3Dir2 m | s3ResRef m | s3ResMv m =>
    exact .finish hrun (.bind s.expectSub3_yields fun _ hs => State.openMode_rank (k := .within .sub3) 3 hs)
  | s3Edge =>
    exact .finish hrun (.bind s.expectSub3_yields fun _ hs => State.edgeMode_rank (k := .within .sub3) 3 hs)
  | s3CopyRef =>
    exact .finish hrun (.bind s.expectSub3_yields fun _ hs => .bind (s.skipBits_evolves .bit1 3) fun t ht =>
      .value fun ⟨_, _⟩ => .bind (t.copyRef_evolves ..) fun _ hu => (ht.trans hu).nextSub_rank hs)
  | s3CopyMv => exact execS3CopyMv_descends hrun
  | s2Dir0 m | s2Dir1 m | s2Dir2 m =>
    exact .finish hrun (.bind s.sub2Here_start fun _ hs => State.openMode_rank 2 hs)
  | s2Edge => exact .finish hrun (.bind s.sub2Here_start fun _ hs => State.edgeMode_rank 2 hs)
  | embSkip1 => exact .finish hrun (.value fun _ => .value fun _ => .error)
  | embCells =>
    exact .finish hrun (.bind (s.mbHere_yields false) fun ⟨_, _⟩ ⟨hs, _⟩ => .bind (s.skipBits_evolves .bit1 1)
      fun t ht => .ok (State.rank_goto_of_mb (ht.place) hs (.inr ⟨_, rfl⟩)))
  | embLitCell lits => exact execEmbLitCell_descends hrun lits
  | value v => exact execValue_descends hrun v
  | w2Lit pair => exact execW2Lit_descends hrun pair
  | w2Run idx run => exact execW2Run_descends hrun idx run
  | d2Strip1 q => exact execD2Strip1_descends hrun q
  | d2Value code payload => exact execD2Value_descends hrun hok code payload
  | d2Dist flag update => exact execD2Dist_descends hrun flag update
  | d2StripSel code kind => exact execD2StripSel_descends hrun code kind
  | d2Verb bytes => exact execD2Verb_descends hrun hok bytes
  | d2Back => exact execD2Back_descends hrun hok
  | d2Strip2 fromBits mask => exact execD2Strip2_descends hrun fromBits mask
  | d2Tail bytes => exact execD2Tail_descends hrun hok bytes
  | dispatchIntra =>
    exact .finish hrun (.bind (s.expectBranch_yields _) fun _ hs => .value fun ⟨_, _⟩ => .ite (fun _ => .error)
      fun _ => .value fun _ => .ok (State.rank_lt_of_dispatch hs (Nat.le_refl 6)))
  | dispatchInter =>
    exact .finish hrun (.bind (s.expectBranch_yields _) fun _ hs => .value fun ⟨_, _⟩ => .value fun _ =>
      .value fun _ => .ok (State.rank_lt_of_dispatch hs (Nat.le_refl 6)))
  | dispatchW2D1 =>
    exact .finish hrun (.bind (s.expectBranch_yields _) fun _ hs => .value fun _ => (State.startW2D1_parts ..).mono
      fun _ h => State.rank_lt_of_dispatch hs (h.trans (by decide)))
  | dispatchW2D2 => exact execDispatchW2D2_descends hrun
  | dispatchExtra | dispatchMode => exact .finish hrun (.value fun _ => .error)
  | decode packet stride cap => cases hi
  | reset => cases hi

/-! ### The step of a running DECODE -/

theorem State.orchestrate_rank (hs : s.seq.stage = .orchestrate) : Yields s.orchestrate (·.rank < s.rank) :=
  .value fun ⟨_, _⟩ => .value fun _ => .value fun _ => .value fun _ => .ite (fun _ => .error) fun _ =>
    .ok (State.rank_lt_of_parts (hs ▸ Nat.lt_succ_self 7))

theorem State.partialFrame_rank (hs : s.seq.stage = .partialFrame) : Yields s.partialFrame (·.rank < s.rank) := by
  refine .value fun ⟨w, h⟩ => .value fun _ => ?_
  split
  · exact .error
  · split
    · exact .error
    · exact .value fun _ => .ok (State.rank_lt_of_parts (hs ▸ (show 1 < 5 by decide)))

theorem State.complete_rank (hrun : s.Running) : Yields s.complete (·.rank < s.rank) :=
  s.complete_idle.mono fun _ ht => State.rank_lt_of_parts (ht ▸ Stage.partsLeft_pos hrun)

/-- A step of a running DECODE brings it nearer to its end. -/
theorem step_descends (h : s.inv = true) (hrun : s.Running) : Descends s (step s) := by
  obtain ⟨-, hok⟩ := State.Busy.of_inv h hrun
  unfold step
  split
  · exact .finish hrun (State.orchestrate_rank ‹_›)
  · exact .finish hrun (State.partialFrame_rank ‹_›)
  · exact .finish hrun (State.complete_rank hrun)
  · exact absurd ‹_› hrun
  · intro t ht
    obtain ⟨i, -, -, -, hi, ht⟩ | ⟨e, rfl⟩ := State.runNext_busy hrun ht
    · exact exec_descends i hi hrun hok t ht
    · exact State.rank_lt_of_parts (Stage.partsLeft_pos hrun)

end

/-! ## Every DECODE ends -/

/-- A DECODE has ended: with DONE, or with the refusal of an input to which the spec gives no meaning. -/
def Ended (o : Host.Outcome State Fault Refusal) : Prop :=
  (∃ t, o = .next t ∧ t.status.phase = .done) ∨ ∃ r, o = .refused r

section

variable {M : Host.Core} {s t : M.State}

/-- A run begins with a step. -/
theorem run_succ (k : Nat) (h : M.step s = .next t) : M.run (k + 1) s = M.run k t := by
  show (match M.step s with | .next s' => M.run k s' | .fault r => .fault r | .refused r => .refused r) = M.run k t
  rw [h]

theorem run_succ_refused (k : Nat) {r : M.Refusal} (h : M.step s = .refused r) : M.run (k + 1) s = .refused r := by
  show (match M.step s with | .next s' => M.run k s' | .fault r => .fault r | .refused r => .refused r) = .refused r
  rw [h]

end

/-- By induction on how far the DECODE is from its end. -/
theorem State.run_ends (s : State) (h : s.inv = true) (hrun : s.Running) : ∃ k, Ended (Sys2Proof.core.run k s) := by
  induction hr : s.rank using WellFoundedLT.induction generalizing s with
  | ind r ih =>
    subst hr
    cases hstep : step s with
    | fault f => exact absurd hstep (step_faultless h f)
    | refused r => exact ⟨1, .inr ⟨r, run_succ_refused (M := Sys2Proof.core) 0 hstep⟩⟩
    | next t =>
      have hinv : t.inv = true := step_inv h t hstep
      by_cases ht : t.Running
      · obtain ⟨k, hk⟩ := ih t.rank (step_descends h hrun t hstep) t hinv ht rfl
        exact ⟨k + 1, run_succ (M := Sys2Proof.core) k hstep ▸ hk⟩
      · obtain ⟨-, hrun'⟩ | ⟨-, hc⟩ | ⟨e, rfl⟩ := step_running hrun hstep
        · exact absurd hrun' ht
        · obtain ⟨-, hstatus, -, -⟩ := State.complete_eq_ok hc
          exact ⟨1, .inl ⟨t, run_succ (M := Sys2Proof.core) 0 hstep, congrArg Status.phase hstatus⟩⟩
        · exact ⟨1, .inl ⟨_, run_succ (M := Sys2Proof.core) 0 hstep, rfl⟩⟩

/-- Settles O60: no step of a running DECODE faults (`step_faultless`), each brings it nearer to its end
(`step_descends`), and the step after which none runs has ended it (`step_running`). -/
theorem decodeEnds : Obligations.DecodeEnds := by
  unfold Obligations.DecodeEnds
  intro s h hbusy
  obtain ⟨-, hphase, -⟩ := State.inv_iff.mp h
  exact s.run_ends h (hphase.mp hbusy)

end Sys2Proof.Machine

namespace Sys2Proof

open Sys2Proof.Machine

/-! ## Decoding what is encoded

The converse of `decode_begins`: on streams that begin with the reads of an instruction that the format admits, each
read of the decoder takes one operand of it.  An instruction is split by `induction` where `cases` would do: the proof
terms of its 68 alternatives are much smaller. -/

section

variable {β : Type} {y : Except Reject β}

/-- A read that answers, and what is done with it. -/
theorem read_then {α : Type} {x : Except Reject α} {f : α → Except Reject β} {a : α} (hx : x = .ok a)
    (hf : f a = y) : (x >>= f) = y :=
  (bind_of_eq_ok hx f).trans hf

/-- A number is read back from its bits. -/
theorem read_number {n v : Nat} (hv : v < 2 ^ n) {left : List Bool} {f : Nat × List Bool → Except Reject β}
    (hf : f (v, left) = y) : (takeBits n (msbBits n v ++ left) >>= f) = y :=
  read_then (takeBits_eq_ok.mpr ⟨hv, rfl⟩) hf

theorem read_word {n : Nat} (v : BitVec n) {left : List Bool} {f : Nat × List Bool → Except Reject β}
    (hf : f (v.toNat, left) = y) : (takeBits n (msbBits n v.toNat ++ left) >>= f) = y :=
  read_number v.isLt hf

theorem read_bit (b : Bool) {left : List Bool} {f : Nat × List Bool → Except Reject β} (hf : f (b.toNat, left) = y) :
    (takeBits 1 (b :: left) >>= f) = y :=
  read_then (takeBit_cons b left) hf

theorem read_bits (bs : List Bool) {left : List Bool} {f : Nat × List Bool → Except Reject β}
    (hf : f (valueOfBits bs, left) = y) : (takeBits bs.length (bs ++ left) >>= f) = y :=
  read_then (takeBits_append bs left) hf

theorem read_u16 (v : Half) {left : List Byte} {f : Half × List Byte → Except Reject β} (hf : f (v, left) = y) :
    (takeU16 (bytes16 v ++ left) >>= f) = y :=
  read_then (takeU16_eq_ok.mpr rfl) hf

theorem read_u32 (v : Word) {left : List Byte} {f : Word × List Byte → Except Reject β} (hf : f (v, left) = y) :
    (takeU32 (bytes32 v ++ left) >>= f) = y :=
  read_then (takeU32_eq_ok.mpr rfl) hf

theorem read_bytes {n : Nat} {bs left : List Byte} (h : bs.length = n) {f : List Byte × List Byte → Except Reject β}
    (hf : f (bs, left) = y) : (takeBytes n (bs ++ left) >>= f) = y :=
  read_then (takeBytes_eq_ok.mpr ⟨h, rfl⟩) hf

theorem read_u16s {n : Nat} {vs : List Half} {left : List Byte} (h : vs.length = n)
    {f : List Half × List Byte → Except Reject β} (hf : f (vs, left) = y) :
    (takeU16s n (bytesOfHalves vs ++ left) >>= f) = y :=
  read_then (takeU16s_eq_ok.mpr ⟨h, rfl⟩) hf

theorem read_value (v : Nat) {left : List Byte} {f : Nat × List Byte → Except Reject β} (hf : f (v, left) = y) :
    (takeValue (valueBytes v ++ left) >>= f) = y :=
  read_then (takeValue_eq_ok.mpr rfl) hf

theorem read_code {α : Type} [DecidableEq α] {tree : PrefixCode α} {code left : List Bool} {a : α}
    {f : List Bool × α × List Bool → Except Reject β} (h : tree.spells code a = true) (hf : f (code, a, left) = y) :
    (takeCode tree (code ++ left) >>= f) = y :=
  read_then (takeCode_of_spells left h) hf

/-- The format leaves the instruction out. -/
theorem not_admitted {p : Prop} (h : false = true) : p := nomatch h

/-- A number of as many bits as the word has gives the word back. -/
theorem ok_ofNat {n : Nat} (mk : BitVec n → Instr) (v : BitVec n) :
    (Except.ok (mk (BitVec.ofNat n v.toNat)) : Except Reject Instr) = .ok (mk v) := by
  rw [BitVec.ofNat_toNat, BitVec.setWidth_eq]

end

/-- Decoding the encoding of `i` in the format `f` gives it back, whatever follows it. -/
def RoundTrips (f : Format) (i : Instr) : Prop := ∀ rest : Streams, decode f (layReads (encode i) rest) = .ok i

section

variable {i : Instr}

/-! ### The header (30_encoding.md R71) -/

theorem decodeAlphaModern_encode (rest : Streams) (raw : Half) (mode pad : Byte) :
    decodeHeader.decodeAlphaModern (layReads (encode (.hdrAlphaModern raw mode pad)) rest).header =
      .ok (.hdrAlphaModern raw mode pad) :=
  read_u16 raw rfl

theorem decodeHeader_index_encode (rest : Streams) (legacy : Bool) (pad : Option Word) (count : Word) :
    decodeHeader .index legacy pad.isSome (layReads (encode (.hdrIndex pad count)) rest).header =
      .ok (.hdrIndex pad count) := by
  cases pad with
  | some pad => exact read_u32 pad (read_u32 count rfl)
  | none => exact read_u32 count rfl

section

variable {legacy ninePatch : Bool}

theorem roundTrips_hdr_len (h : (Format.hdr .len legacy ninePatch).admits i = true) :
    RoundTrips (.hdr .len legacy ninePatch) i := by
  induction i with
  | hdrLen => exact fun _ => rfl
  | _ => exact not_admitted h

theorem roundTrips_hdr_magic (h : (Format.hdr .magic legacy ninePatch).admits i = true) :
    RoundTrips (.hdr .magic legacy ninePatch) i := by
  induction i with
  | hdrMagic => exact fun _ => rfl
  | _ => exact not_admitted h

theorem roundTrips_hdr_version (h : (Format.hdr .version legacy ninePatch).admits i = true) :
    RoundTrips (.hdr .version legacy ninePatch) i := by
  induction i with
  | hdrVersion v => exact fun _ => rfl
  | _ => exact not_admitted h

theorem roundTrips_hdr_rawType (h : (Format.hdr .rawType legacy ninePatch).admits i = true) :
    RoundTrips (.hdr .rawType legacy ninePatch) i := by
  induction i with
  | hdrRawType t => exact fun _ => rfl
  | _ => exact not_admitted h

theorem roundTrips_hdr_flagsAB (h : (Format.hdr .flagsAB legacy ninePatch).admits i = true) :
    RoundTrips (.hdr .flagsAB legacy ninePatch) i := by
  induction i with
  | hdrFlagsAB a b => exact fun _ => rfl
  | _ => exact not_admitted h

theorem roundTrips_hdr_dims (h : (Format.hdr .dims legacy ninePatch).admits i = true) :
    RoundTrips (.hdr .dims legacy ninePatch) i := by
  induction i with
  | hdrDims w height => exact fun _ => read_u16 w (read_u16 height rfl)
  | _ => exact not_admitted h

theorem roundTrips_hdr_flagsCD (h : (Format.hdr .flagsCD legacy ninePatch).admits i = true) :
    RoundTrips (.hdr .flagsCD legacy ninePatch) i := by
  induction i with
  | hdrFlagsCD c d => exact fun _ => rfl
  | _ => exact not_admitted h

theorem roundTrips_hdr_alphaPresent (h : (Format.hdr .alphaPresent legacy ninePatch).admits i = true) :
    RoundTrips (.hdr .alphaPresent legacy ninePatch) i := by
  induction i with
  | hdrAlphaPresent => exact fun _ => rfl
  | _ => exact not_admitted h

theorem roundTrips_hdr_anim (h : (Format.hdr .anim legacy ninePatch).admits i = true) :
    RoundTrips (.hdr .anim legacy ninePatch) i := by
  induction i with
  | hdrAnim total current delay noRepeat pad => exact fun _ => read_u16 total (read_u16 current (read_u16 delay rfl))
  | _ => exact not_admitted h

theorem roundTrips_hdr_first (h : (Format.hdr .first legacy ninePatch).admits i = true) :
    RoundTrips (.hdr .first legacy ninePatch) i := by
  induction i with
  | hdrFirst => exact fun _ => rfl
  | _ => exact not_admitted h

theorem roundTrips_hdr_scale (h : (Format.hdr .scale legacy ninePatch).admits i = true) :
    RoundTrips (.hdr .scale legacy ninePatch) i := by
  induction i with
  | hdrAlphaModern raw mode pad => exact fun rest => decodeAlphaModern_encode rest raw mode pad
  | _ => exact not_admitted h

theorem roundTrips_hdr_size (h : (Format.hdr .size legacy ninePatch).admits i = true) :
    RoundTrips (.hdr .size legacy ninePatch) i := by
  induction i with
  | hdrSize => exact fun _ => rfl
  | _ => exact not_admitted h

theorem roundTrips_hdr_xval (h : (Format.hdr .xval legacy ninePatch).admits i = true) :
    RoundTrips (.hdr .xval legacy ninePatch) i := by
  induction i with
  | hdrXval => exact fun _ => rfl
  | _ => exact not_admitted h

theorem roundTrips_hdr_dataEnd (h : (Format.hdr .dataEnd legacy ninePatch).admits i = true) :
    RoundTrips (.hdr .dataEnd legacy ninePatch) i := by
  induction i with
  | hdrDataEnd => exact fun _ => rfl
  | _ => exact not_admitted h

theorem roundTrips_hdr_qpGate (h : (Format.hdr .qpGate legacy ninePatch).admits i = true) :
    RoundTrips (.hdr .qpGate legacy ninePatch) i := by
  induction i with
  | hdrQpGate => exact fun _ => rfl
  | _ => exact not_admitted h

theorem roundTrips_hdr_alpha_legacy (h : (Format.hdr .alpha true ninePatch).admits i = true) :
    RoundTrips (.hdr .alpha true ninePatch) i := by
  induction i with
  | hdrAlphaLegacy raw => exact fun _ => read_u32 raw rfl
  | _ => exact not_admitted h

theorem roundTrips_hdr_alpha_modern (h : (Format.hdr .alpha false ninePatch).admits i = true) :
    RoundTrips (.hdr .alpha false ninePatch) i := by
  induction i with
  | hdrAlphaModern raw mode pad => exact fun rest => decodeAlphaModern_encode rest raw mode pad
  | _ => exact not_admitted h

theorem roundTrips_hdr_index (h : (Format.hdr .index legacy ninePatch).admits i = true) :
    RoundTrips (.hdr .index legacy ninePatch) i := by
  induction i with
  | hdrIndex pad count =>
    obtain rfl : pad.isSome = ninePatch := beq_iff_eq.mp h
    exact fun rest => decodeHeader_index_encode rest legacy pad count
  | _ => exact not_admitted h

theorem roundTrips_hdr {k : HdrStep} (h : (Format.hdr k legacy ninePatch).admits i = true) :
    RoundTrips (.hdr k legacy ninePatch) i := by
  cases k with
  | alpha =>
    cases legacy with
    | true => exact roundTrips_hdr_alpha_legacy h
    | false => exact roundTrips_hdr_alpha_modern h
  | index => exact roundTrips_hdr_index h
  | len => exact roundTrips_hdr_len h
  | magic => exact roundTrips_hdr_magic h
  | version => exact roundTrips_hdr_version h
  | rawType => exact roundTrips_hdr_rawType h
  | flagsAB => exact roundTrips_hdr_flagsAB h
  | dims => exact roundTrips_hdr_dims h
  | flagsCD => exact roundTrips_hdr_flagsCD h
  | alphaPresent => exact roundTrips_hdr_alphaPresent h
  | anim => exact roundTrips_hdr_anim h
  | first => exact roundTrips_hdr_first h
  | scale => exact roundTrips_hdr_scale h
  | size => exact roundTrips_hdr_size h
  | xval => exact roundTrips_hdr_xval h
  | dataEnd => exact roundTrips_hdr_dataEnd h
  | qpGate => exact roundTrips_hdr_qpGate h

end

/-! ### The dispatch and the table -/

theorem roundTrips_dispatch {extra animated first modeOk : Bool} {depth : Half}
    (h : (Format.dispatch extra animated first modeOk depth).admits i = true) :
    RoundTrips (.dispatch extra animated first modeOk depth) i := by
  cases extra with
  | true =>
    obtain rfl | rfl | rfl | rfl | rfl | rfl := Format.admits_dispatch h
    · exact fun _ => rfl
    all_goals exact not_admitted h
  | false =>
    cases animated with
    | true =>
      cases first with
      | true =>
        obtain rfl | rfl | rfl | rfl | rfl | rfl := Format.admits_dispatch h
        · exact not_admitted h
        · exact fun _ => rfl
        all_goals exact not_admitted h
      | false =>
        obtain rfl | rfl | rfl | rfl | rfl | rfl := Format.admits_dispatch h
        · exact not_admitted h
        · exact not_admitted h
        · exact fun _ => rfl
        all_goals exact not_admitted h
    | false =>
      cases modeOk with
      | false =>
        obtain rfl | rfl | rfl | rfl | rfl | rfl := Format.admits_dispatch h
        · exact not_admitted h
        · exact not_admitted h
        · exact not_admitted h
        · exact fun _ => rfl
        all_goals exact not_admitted h
      | true =>
        obtain rfl | rfl | rfl | rfl | rfl | rfl := Format.admits_dispatch h
        · exact not_admitted h
        · exact not_admitted h
        · exact not_admitted h
        · exact not_admitted h
        · obtain rfl : depth = 1 := beq_iff_eq.mp h
          exact fun _ => rfl
        · obtain rfl : depth = 2 := beq_iff_eq.mp h
          exact fun _ => rfl

theorem roundTrips_table {dynamic : Bool} (h : (Format.table dynamic).admits i = true) :
    RoundTrips (.table dynamic) i := by
  cases dynamic with
  | false =>
    induction i with
    | dtConst => exact fun _ => rfl
    | _ => exact not_admitted h
  | true =>
    induction i with
    | dtab signs mags =>
      obtain ⟨hsigns, hmags⟩ := Bool.and_eq_true_iff.mp h
      exact fun _ => read_bytes (beq_iff_eq.mp hsigns) (read_u16s (beq_iff_eq.mp hmags) rfl)
    | _ => exact not_admitted h

/-! ### Tiles, pixels and macroblocks -/

theorem roundTrips_tile2 (h : Format.tile2.admits i = true) : RoundTrips .tile2 i := by
  induction i with
  | tile2Dir0 mask => exact fun _ => read_bits [false, false] (read_u16 mask rfl)
  | tile2Dir1 mask => exact fun _ => read_bits [false, true] (read_u16 mask rfl)
  | tile2Dir2 mask => exact fun _ => read_bits [true, false] (read_u16 mask rfl)
  | tile2Edge => exact fun _ => read_bits [true, true] rfl
  | _ => exact not_admitted h

theorem roundTrips_sub2 (h : Format.sub2.admits i = true) : RoundTrips .sub2 i := by
  induction i with
  | s2Dir0 mask => exact fun _ => read_bits [false, false] (read_u16 mask rfl)
  | s2Dir1 mask => exact fun _ => read_bits [false, true] (read_u16 mask rfl)
  | s2Dir2 mask => exact fun _ => read_bits [true, false] (read_u16 mask rfl)
  | s2Edge => exact fun _ => read_bits [true, true] rfl
  | _ => exact not_admitted h

theorem roundTrips_sub3 (h : Format.sub3.admits i = true) : RoundTrips .sub3 i := by
  induction i with
  | s3Dir0 mask => exact fun _ => read_bits [false, false, false] (read_u16 mask rfl)
  | s3Dir1 mask => exact fun _ => read_bits [false, false, true] (read_u16 mask rfl)
  | s3Dir2 mask => exact fun _ => read_bits [false, true, false] (read_u16 mask rfl)
  | s3Edge => exact fun _ => read_bits [false, true, true] rfl
  | s3ResRef mask => exact fun _ => read_bits [true, false, false] (read_u16 mask rfl)
  | s3CopyRef => exact fun _ => read_bits [true, false, true] rfl
  | s3ResMv mask => exact fun _ => read_bits [true, true, false] (read_u16 mask rfl)
  | s3CopyMv => exact fun _ => read_bits [true, true, true] rfl
  | _ => exact not_admitted h

theorem roundTrips_pixel {maskBit : Bool} (h : (Format.pixel maskBit).admits i = true) :
    RoundTrips (.pixel maskBit) i := by
  cases maskBit with
  | true =>
    induction i with
    | pixCopy => exact fun _ => rfl
    | _ => exact not_admitted h
  | false =>
    induction i with
    | pixLit lit => exact fun _ => read_bits [true, true, true] (read_u16 lit rfl)
    | pixRes0 i => exact fun _ => read_number (by decide) (read_word i (ok_ofNat .pixRes0 i))
    | pixRes1 i => exact fun _ => read_number (by decide) (read_word i (ok_ofNat .pixRes1 i))
    | pixRes2 i => exact fun _ => read_number (by decide) (read_word i (ok_ofNat .pixRes2 i))
    | pixRes3 i => exact fun _ => read_number (by decide) (read_word i (ok_ofNat .pixRes3 i))
    | pixRes4 i => exact fun _ => read_number (by decide) (read_word i (ok_ofNat .pixRes4 i))
    | pixRes5 i => exact fun _ => read_number (by decide) (read_word i (ok_ofNat .pixRes5 i))
    | pixRes6 i => exact fun _ => read_number (by decide) (read_word i (ok_ofNat .pixRes6 i))
    | _ => exact not_admitted h

theorem roundTrips_mb16 (h : Format.mb16.admits i = true) : RoundTrips .mb16 i := by
  induction i with
  | mbSub2 => exact fun _ => read_bit false rfl
  | mbRefCopy => exact fun _ => read_bit true (read_bit true rfl)
  | mbMvZero => exact fun _ => read_bit true (read_bit false (read_bit true rfl))
  | mbMv a b =>
    refine fun _ => read_bit true (read_bit false (read_bit false (read_word a (read_word b ?_))))
    exact (ok_ofNat (.mbMv · _) a).trans (ok_ofNat (.mbMv a ·) b)
  | _ => exact not_admitted h

theorem roundTrips_mbEdge (h : Format.mbEdge.admits i = true) : RoundTrips .mbEdge i := by
  induction i with
  | embSkip1 => exact fun _ => read_bit true rfl
  | embCells => exact fun _ => read_bit false rfl
  | _ => exact not_admitted h

theorem roundTrips_mvCopy (h : Format.mvCopy.admits i = true) : RoundTrips .mvCopy i := by
  induction i with
  | mbMcCopy => exact fun _ => read_bit true rfl
  | mbMcSub => exact fun _ => read_bit false rfl
  | _ => exact not_admitted h

theorem roundTrips_gate (h : Format.gate.admits i = true) : RoundTrips .gate i := by
  induction i with
  | gate => exact fun _ => rfl
  | _ => exact not_admitted h

theorem roundTrips_litCell {count : Nat} (h : (Format.litCell count).admits i = true) : RoundTrips (.litCell count) i := by
  induction i with
  | embLitCell lits => exact fun _ => read_u16s (beq_iff_eq.mp h) rfl
  | _ => exact not_admitted h

/-! ### W2 -/

theorem roundTrips_value (h : Format.value.admits i = true) : RoundTrips .value i := by
  induction i with
  | value v => exact fun _ => read_value v rfl
  | _ => exact not_admitted h

theorem roundTrips_w2Sym {idx : Nat} (h : (Format.w2Sym idx).admits i = true) : RoundTrips (.w2Sym idx) i := by
  induction i with
  | w2Lit pair =>
    obtain rfl : idx = 0 := beq_iff_eq.mp h
    exact fun _ => read_u32 pair rfl
  | w2Run j run =>
    obtain ⟨hj, hne⟩ := Bool.and_eq_true_iff.mp h
    obtain rfl : idx = j := beq_iff_eq.mp hj
    exact fun _ => (if_neg (bne_iff_ne.mp hne)).trans (read_value run rfl)
  | _ => exact not_admitted h

theorem roundTrips_d2Strip1 (h : Format.d2Strip1.admits i = true) : RoundTrips .d2Strip1 i := by
  induction i with
  | d2Strip1 q => exact fun _ => read_u32 q rfl
  | _ => exact not_admitted h

theorem roundTrips_d2Value {tree : PrefixCode ValueKind} (h : (Format.d2Value tree).admits i = true) :
    RoundTrips (.d2Value tree) i := by
  induction i with
  | d2Value code payload =>
    cases payload with
    | backref => exact fun _ => read_code (tree := tree) (code := code) (a := .backref) h rfl
    | xor key => exact fun _ => read_code (tree := tree) (code := code) (a := .xor) h rfl
    | lit v => exact fun _ => read_code (tree := tree) (code := code) (a := .lit) h (read_u16 v rfl)
  | _ => exact not_admitted h

theorem roundTrips_d2Dist {ifClear ifSet : DistOp} (h : (Format.d2Dist ifClear ifSet).admits i = true) :
    RoundTrips (.d2Dist ifClear ifSet) i := by
  induction i with
  | d2Dist flag update =>
    cases update with
    | keep => cases flag <;> obtain rfl := beq_iff_eq.mp h <;> exact fun _ => read_bit _ rfl
    | byte d => cases flag <;> obtain rfl := beq_iff_eq.mp h <;> exact fun _ => read_bit _ rfl
    | half d => cases flag <;> obtain rfl := beq_iff_eq.mp h <;> exact fun _ => read_bit _ (read_u16 d rfl)
  | _ => exact not_admitted h

theorem roundTrips_d2StripSel {tree : PrefixCode (Option StripKind)}
    (h : (Format.d2StripSel tree).admits i = true) : RoundTrips (.d2StripSel tree) i := by
  induction i with
  | d2StripSel code kind => exact fun _ => read_code (tree := tree) (code := code) (a := some kind) h rfl
  | _ => exact not_admitted h

theorem roundTrips_d2Body {kind : StripKind} {maskInBits : Bool}
    (h : (Format.d2Body kind maskInBits).admits i = true) : RoundTrips (.d2Body kind maskInBits) i := by
  cases kind with
  | verb =>
    induction i with
    | d2Verb bytes => exact fun _ => read_bytes (beq_iff_eq.mp h) rfl
    | _ => exact not_admitted h
  | back =>
    induction i with
    | d2Back => exact fun _ => rfl
    | _ => exact not_admitted h
  | strip2 =>
    induction i with
    | d2Strip2 fromBits mask =>
      obtain rfl : maskInBits = fromBits := beq_iff_eq.mp h
      cases maskInBits with
      | true => exact fun _ => read_word mask (ok_ofNat (.d2Strip2 true) mask)
      | false => exact fun _ => rfl
    | _ => exact not_admitted h

theorem roundTrips_d2Tail {count : Nat} (h : (Format.d2Tail count).admits i = true) : RoundTrips (.d2Tail count) i := by
  induction i with
  | d2Tail bytes => exact fun _ => read_bytes (beq_iff_eq.mp h) rfl
  | _ => exact not_admitted h

/-! ### Every format -/

theorem roundTrips_command (h : Format.command.admits i = true) : RoundTrips .command i := by
  induction i with
  | decode packet stride cap => exact fun _ => rfl
  | reset => exact fun _ => rfl
  | _ => exact not_admitted h

theorem roundTrips_of_admits {f : Format} (h : f.admits i = true) : RoundTrips f i := by
  cases f with
  | hdr k legacy ninePatch => exact roundTrips_hdr h
  | dispatch extra animated first modeOk depth => exact roundTrips_dispatch h
  | table dynamic => exact roundTrips_table h
  | tile2 => exact roundTrips_tile2 h
  | pixel maskBit => exact roundTrips_pixel h
  | mb16 => exact roundTrips_mb16 h
  | mbEdge => exact roundTrips_mbEdge h
  | mvCopy => exact roundTrips_mvCopy h
  | gate => exact roundTrips_gate h
  | sub3 => exact roundTrips_sub3 h
  | sub2 => exact roundTrips_sub2 h
  | litCell count => exact roundTrips_litCell h
  | value => exact roundTrips_value h
  | w2Sym idx => exact roundTrips_w2Sym h
  | d2Strip1 => exact roundTrips_d2Strip1 h
  | d2Value code => exact roundTrips_d2Value h
  | d2Dist ifClear ifSet => exact roundTrips_d2Dist h
  | d2StripSel code => exact roundTrips_d2StripSel h
  | d2Body kind maskInBits => exact roundTrips_d2Body h
  | d2Tail count => exact roundTrips_d2Tail h
  | command => exact roundTrips_command h

end

/-- Settles O1: each read of the decoder takes what the encoder gives for one operand, whatever follows it
(`roundTrips_of_admits`). -/
theorem decodeOfEncode : Obligations.DecodeOfEncode := by
  unfold Obligations.DecodeOfEncode
  exact fun _ _ rest h => roundTrips_of_admits h rest

/-- Settles O3: the five words are the encodings of their instructions (`roundTrips_of_admits`). -/
theorem specWordsDecode : Obligations.SpecWordsDecode := by
  unfold Obligations.SpecWordsDecode
  exact ⟨roundTrips_of_admits (i := .tile2Dir1 0xFFD0) rfl {}, roundTrips_of_admits (i := .pixRes1 3) rfl {},
    roundTrips_of_admits (i := .mbMv 0x7F 0x43) rfl {}, roundTrips_of_admits (i := .value 513) rfl {},
    roundTrips_of_admits (i := .w2Lit 0xDDCCBBAA) rfl {}⟩

end Sys2Proof

namespace Sys2Proof.Machine

open Sys2Proof

/-! ## RESET (70_reset_and_hazards.md R285, R286) -/

section

variable {s : State}

theorem execReset_busy (h : s.status.phase = .busy) : execReset s = .refused .busy := finish_refused (if_pos h)

/-- The state that RESET leaves. -/
def State.resetDone (s : State) : State :=
  { State.reset with
    cfg := s.cfg, pkt := s.pkt, len := s.len, stride := s.stride, cap := s.cap, outBuf := s.outBuf, queue := s.queue,
    frees := s.frees }

theorem execReset_eq (h : s.status.phase ≠ .busy) : execReset s = .next s.resetDone := finish_next (if_neg h)

end

/-- Settles O10: RESET's refusal and its state (`execReset_busy`, `execReset_eq`). -/
theorem resetCommand : Obligations.ResetCommand := by
  unfold Obligations.ResetCommand
  exact fun s => ⟨execReset_busy, fun h => ⟨_, execReset_eq h, rfl, rfl, rfl, rfl, rfl, rfl, rfl, rfl⟩⟩

end Sys2Proof.Machine

namespace Sys2Proof.Machine

open Sys2Proof

/-! ## Every step keeps the memories in their canonical form (20_memory.md section 1, log 6)

The work of a symbol keeps it (`Evolves`), the sequencer and the registers do not touch it, and what a unit's start, the
completion, an error or a host command puts into a memory is in the form. -/

theorem Evolves.canonical {s t : State} (h : Evolves s t) (hs : s.canonical = true) : t.canonical = true := by
  obtain ⟨⟨hpkt, hibuf, hframe, href⟩, hout⟩ := State.canonical_iff.mp hs
  have hp : t.pkt = s.pkt := h.keeps State.pkt fun _ => rfl
  have hr : t.ref = s.ref := h.keeps State.ref fun _ => rfl
  have ho : t.outBuf = s.outBuf := h.keeps State.outBuf fun _ => rfl
  exact State.canonical_iff.mpr ⟨⟨hp ▸ hpkt, h.ibuf hibuf, h.frame hframe, hr ▸ href⟩, ho ▸ hout⟩

end Sys2Proof.Machine

namespace Sys2Proof

open Sys2Proof.Machine

/-- What follows work on a canonical state starts in a canonical state. -/
theorem Yields.work {s : State} {β : Type} {a : Act State} {f : State → Act β} {P : β → Prop}
    (ha : Yields a (Evolves s)) (hs : s.canonical = true) (hf : ∀ t, t.canonical = true → Yields (f t) P) :
    Yields (a >>= f) P :=
  .bind ha fun t ht => hf t (ht.canonical hs)

end Sys2Proof

namespace Sys2Proof.Machine

open Sys2Proof

/-- The memories of the outcome are in their canonical form, if it is a next state. -/
def LeadsToCanonical (o : Host.Outcome State Fault Refusal) : Prop := ∀ t, o = .next t → t.canonical = true

section

variable {s : State} (hs : s.canonical = true)

include hs

/-- The empty frame store of an error, and what it leaves of the output buffer, are in the form
(60_exceptions.md R266). -/
theorem State.fail_canonical (e : Err) : (s.fail e).canonical = true := by
  obtain ⟨⟨hpkt, hibuf, -, href⟩, -⟩ := State.canonical_iff.mp hs
  exact State.canonical_iff.mpr ⟨⟨hpkt, hibuf, Store.wf_ofList _, href⟩, freeBuffer_rising _ _⟩

theorem LeadsToCanonical.finish {a : Act State} (ha : Yields a (·.canonical = true)) :
    LeadsToCanonical (finish s a) := by
  intro t ht
  obtain ht | ⟨e, -, rfl⟩ := finish_eq_next.mp ht
  · exact ha.apply t ht
  · exact State.fail_canonical hs e

/-! ### The sequencer's steps -/

theorem State.nextTile_canonical : Yields s.nextTile (·.canonical = true) :=
  .value fun ⟨_, _⟩ => .ite (fun _ => .ok hs) fun _ => .ok hs

theorem State.nextMb_canonical : Yields s.nextMb (·.canonical = true) :=
  .value fun ⟨_, _⟩ => .ite (fun _ => .ok hs) fun _ => .ok hs

theorem State.nextSub_canonical (k : SubKind) : Yields (s.nextSub k) (·.canonical = true) := by
  refine .value fun ⟨w, h⟩ => ?_
  dsimp only
  split
  · exact .ok hs
  · exact State.nextMb_canonical hs

theorem State.tileDone_canonical (k : TileKind) : Yields (s.tileDone k) (·.canonical = true) := by
  cases k with
  | frame => exact State.nextTile_canonical hs
  | within k => exact State.nextSub_canonical hs k

theorem State.pixelDone_canonical (k : TileKind) : Yields (s.pixelDone k) (·.canonical = true) :=
  .ite (fun _ => .ok hs) fun _ => State.tileDone_canonical hs k

theorem State.tableDone_canonical (dt : List Half) : Yields (s.tableDone dt) (·.canonical = true) :=
  .value fun ⟨_, _⟩ => .ok hs

theorem State.w2Next_canonical : Yields s.w2Next (·.canonical = true) :=
  .value fun _ => .value fun _ => .ite (fun _ => .ok hs) fun _ => .value fun _ => .ite (fun _ => .ok hs) fun _ => .ok hs

theorem State.startW2D1_canonical (mem : CurMem) (b e : Nat) : Yields (s.startW2D1 mem b e) (·.canonical = true) := by
  have hbuild : Yields (s.buildW2D1 mem b e) (·.canonical = true) := by
    refine .value fun _ => ?_
    split
    · exact .error
    · exact .value fun _ => .ok hs
  exact .bind hbuild fun _ ht => .value fun ⟨_, _⟩ => State.w2Next_canonical ht

theorem State.d2Next_canonical : Yields s.d2Next (·.canonical = true) :=
  .value fun _ => .value fun _ => .ite (fun _ => .ok hs) fun _ => .ite (fun _ => .ok hs) fun _ =>
    State.startW2D1_canonical hs ..

theorem State.valueDone_canonical (strip : Strip) (j : Nat) : Yields (s.valueDone strip j) (·.canonical = true) :=
  .ite (fun _ => .ok hs) fun _ => State.d2Next_canonical hs

/-! ### Tiles, pixels and macroblocks -/

theorem State.openTile_canonical (pr : Predictor) (k : TileKind) (mask : Half) :
    Yields (s.openTile pr k mask) (·.canonical = true) :=
  .work (s.skipBytes_evolves .maskc 2) hs fun _ ht => .ok ht

theorem State.edgeTile_canonical (k : TileKind) : Yields (s.edgeTile k) (·.canonical = true) :=
  .value fun ⟨_, _⟩ => .ite (fun _ => State.tileDone_canonical hs k) fun _ =>
    .work (s.fillRect_evolves ..) hs fun _ ht => State.tileDone_canonical ht k

theorem State.residual_canonical (c i : Nat) : Yields (s.residual c i) (·.canonical = true) :=
  .value fun ⟨_, _, _, k⟩ => .work (s.skipBits_evolves .bit2 3) hs fun t ht =>
    .work (t.skipBits_evolves .bit1 _) ht fun u hu => .value fun _ => .value fun _ =>
      .work (u.putPixel_evolves ..) hu fun _ hv => State.pixelDone_canonical hv k

/-- A mode of `n` bits, then a predicted tile. -/
theorem State.openMode_canonical (n : Nat) (pr : Predictor) (k : TileKind) (mask : Half) :
    Yields (do let s ← s.skipBits .bit1 n; s.openTile pr k mask) (·.canonical = true) :=
  .work (s.skipBits_evolves .bit1 n) hs fun _ ht => State.openTile_canonical ht pr k mask

theorem execS3CopyMv_canonical : LeadsToCanonical (execS3CopyMv s) :=
  .finish hs (.value fun _ => .work (s.skipBits_evolves .bit1 3) hs fun t ht => .value fun ⟨_, _⟩ =>
    .value fun ⟨_, _⟩ => .value fun _ => .ite (fun _ => .work (t.copyRef_evolves ..) ht fun _ hu =>
      State.nextSub_canonical hu _) fun _ => State.nextSub_canonical ht _)

theorem execMbMv_canonical (a : BitVec 8) (b : BitVec 7) : LeadsToCanonical (execMbMv a b s) :=
  .finish hs (.value fun ⟨_, _⟩ => .value fun ⟨_, _⟩ => .work (s.skipBits_evolves .bit1 3) hs fun t ht =>
    .work (t.skipBits_evolves .bit1 8) ht fun u hu => .work (u.skipBits_evolves .bit1 7) hu fun _ hv =>
      .ite (fun _ => .ok hv) fun _ => State.nextMb_canonical hv)

/-! ### Meanings that depend on the control point, or on what they read -/

theorem execHdrAlphaModern_canonical (raw : Half) (mode pad : Byte) :
    LeadsToCanonical (execHdrAlphaModern raw mode pad s) := by
  refine .finish hs ?_
  split
  · exact .value fun _ => .value fun _ => .value fun _ => .value fun _ => .ok hs
  · exact .value fun _ => .ite (fun _ => .value fun _ => .value fun _ => .ok hs) fun _ => .value fun _ =>
      .value fun _ => .ok hs
  · exact .error

theorem execGate_canonical : LeadsToCanonical (execGate s) := by
  refine .finish hs ?_
  split
  · exact .value fun _ => .value fun _ => .ok hs
  · exact .error

theorem execD2Dist_canonical (flag : Bool) (update : DistUpdate) : LeadsToCanonical (execD2Dist flag update s) := by
  refine .finish hs ?_
  split
  · refine .value fun d => .work (s.skipBits_evolves .d2b 1) hs fun t ht => ?_
    dsimp only
    split
    · exact .ok ht
    · exact .work (t.skipBytes_evolves .d2dist 1) ht fun _ hu => .ok hu
    · exact .work (t.skipBytes_evolves .d2dist 2) ht fun _ hu => .ok hu
    · exact .error
  · exact .error

omit hs in
theorem State.appendIbuf_evolves (s : State) (bs : List Byte) : Yields (s.appendIbuf bs) (Evolves s) :=
  (s.appendIbuf_yields bs).mono fun _ h => h.1

omit hs in
theorem State.appendBack_evolves (s : State) (n : Nat) : Yields (s.appendBack n) (Evolves s) :=
  (s.appendBack_yields n).mono fun _ h => h.1

theorem execD2Value_canonical (code : List Bool) (payload : D2Payload) :
    LeadsToCanonical (execD2Value code payload s) := by
  refine .finish hs ?_
  split
  · refine .value fun d => .work (s.skipBits_evolves .d2b _) hs fun t ht => ?_
    cases payload with
    | backref =>
      exact .value fun _ => .work (t.appendBack_evolves 2) ht fun _ hu => State.valueDone_canonical hu _ _
    | xor key =>
      refine .value fun _ => .work (t.skipBytes_evolves .d2key 1) ht fun u hu => ?_
      split
      · exact .error
      · exact .value fun _ => .work (u.appendIbuf_evolves _) hu fun _ hv => State.valueDone_canonical hv _ _
    | lit v =>
      exact .value fun _ => .work (t.skipBytes_evolves .d2l 2) ht fun u hu => .work (u.appendIbuf_evolves _) hu
        fun _ hv => State.valueDone_canonical hv _ _
  · exact .error

/-! ### The orchestrator -/

/-- A unit starts with a frame store in the form. -/
theorem State.enterUnit_canonical {f : Pixels} (u : SeqUnit) (hf : Store.wf f = true) :
    (s.enterUnit u f).canonical = true := by
  obtain ⟨⟨hpkt, hibuf, -, href⟩, hout⟩ := State.canonical_iff.mp hs
  exact State.canonical_iff.mpr ⟨⟨hpkt, hibuf, hf, href⟩, hout⟩

theorem State.buildTable_canonical : Yields (do let s ← s.buildA9LL; .ok (s.goto .table)) (·.canonical = true) := by
  refine .bind s.buildA9LL_yields ?_
  rintro _ ⟨-, rfl⟩
  exact .ok hs

theorem execDispatchW2D2_canonical : LeadsToCanonical (execDispatchW2D2 s) := by
  refine .finish hs (.value fun _ => .value fun d => .bind (State.buildW2D2_yields _ d) ?_)
  rintro ⟨size, _⟩ ⟨g, -, rfl⟩
  obtain ⟨⟨hpkt, -, -, href⟩, hout⟩ := State.canonical_iff.mp hs
  refine .value fun _ => .ite (fun _ => .ok ?_) fun _ => State.d2Next_canonical ?_
  · exact State.canonical_iff.mpr ⟨⟨hpkt, rfl, rfl, href⟩, hout⟩
  · exact State.canonical_iff.mpr ⟨⟨hpkt, rfl, rfl, href⟩, hout⟩

theorem State.orchestrate_canonical : Yields s.orchestrate (·.canonical = true) :=
  .value fun ⟨_, _⟩ => .value fun _ => .value fun _ => .value fun _ => .ite (fun _ => .error) fun _ => .ok hs

theorem State.partialFrame_canonical : Yields s.partialFrame (·.canonical = true) := by
  refine .value fun ⟨w, h⟩ => .value fun _ => ?_
  split
  · exact .error
  · split
    · exact .error
    · exact .work (s.fillRect_evolves ..) hs fun _ ht => .ok ht

/-- The completed frame is the new reference, and is written to the output buffer (46_orchestrator.md R254, R255). -/
theorem State.complete_canonical : Yields s.complete (·.canonical = true) := by
  obtain ⟨⟨hpkt, hibuf, hframe, -⟩, hout⟩ := State.canonical_iff.mp hs
  refine .value fun ⟨w, h⟩ => .value fun _ => .value fun _ => .value fun _ => .ok ?_
  have hfinal : Store.wf (s.finalFrame w h) = true := State.finalFrame_wf hframe
  exact State.canonical_iff.mpr ⟨⟨hpkt, hibuf, hfinal, hfinal⟩, writeOut_rising _ _ _ _ _ hout⟩

/-! ### The host's commands -/

theorem execDecode_canonical (packet : List Byte) (stride cap : Nat) :
    LeadsToCanonical (execDecode packet stride cap s) := by
  obtain ⟨⟨-, hibuf, hframe, href⟩, hout⟩ := State.canonical_iff.mp hs
  refine .finish hs (.ite (fun _ => .error) fun _ => .ite (fun _ => .error) fun _ => .ok ?_)
  exact State.canonical_iff.mpr ⟨⟨Memory.wf_setBytes 0 packet rfl, hibuf, hframe, href⟩, hout⟩

theorem execReset_canonical : LeadsToCanonical (execReset s) := by
  obtain ⟨⟨hpkt, -, -, -⟩, hout⟩ := State.canonical_iff.mp hs
  refine .finish hs (.ite (fun _ => .error) fun _ => .ok ?_)
  exact State.canonical_iff.mpr ⟨⟨hpkt, rfl, rfl, rfl⟩, hout⟩

/-! ### Every meaning -/

theorem exec_canonical (i : Instr) : LeadsToCanonical (exec i s) := by
  cases i with
  | hdrVersion v => exact .finish hs (.value fun _ => .value fun _ => .ok hs)
  | hdrLen | hdrRawType v | hdrFlagsAB a b | hdrDims w h | hdrFlagsCD c d | hdrAlphaPresent | hdrSize | hdrQpGate =>
    exact .finish hs (.value fun _ => .value fun _ => .value fun _ => .ok hs)
  | hdrMagic => exact .finish hs (.value fun _ => .value fun _ => .value fun _ => .value fun _ => .ok hs)
  | hdrAlphaLegacy raw | hdrAnim total current delay noRepeat pad | hdrIndex pad count | hdrXval =>
    exact .finish hs (.value fun _ => .value fun _ => .value fun _ => .value fun _ => .value fun _ => .ok hs)
  | hdrAlphaModern raw mode pad => exact execHdrAlphaModern_canonical hs raw mode pad
  | hdrDataEnd =>
    exact .finish hs (.value fun _ => .value fun _ => .ite (fun _ => .value fun _ => .value fun _ => .ok hs)
      fun _ => .value fun _ => .value fun _ => .ok hs)
  | hdrFirst =>
    exact .finish hs (.value fun _ => .value fun _ => .ite (fun _ => .value fun _ => .value fun _ => .ok hs)
      fun _ => .value fun _ => .ok hs)
  | tile2Dir0 m | tile2Dir1 m | tile2Dir2 m | s3Dir0 m | s3Dir1 m | s3Dir2 m | s3ResRef m | s3ResMv m | s2Dir0 m
    | s2Dir1 m | s2Dir2 m =>
    exact .finish hs (.value fun _ => State.openMode_canonical hs _ _ _ m)
  | tile2Edge | s3Edge | s2Edge =>
    exact .finish hs (.value fun _ => .work (s.skipBits_evolves .bit1 _) hs fun _ ht => State.edgeTile_canonical ht _)
  | pixCopy =>
    exact .finish hs (.value fun ⟨_, _, _, k⟩ => .value fun _ => .work (s.putPixel_evolves ..) hs fun _ ht =>
      State.pixelDone_canonical ht k)
  | pixRes0 i | pixRes1 i | pixRes2 i | pixRes3 i | pixRes4 i | pixRes5 i | pixRes6 i =>
    exact .finish hs (State.residual_canonical hs _ _)
  | pixLit lit =>
    exact .finish hs (.value fun ⟨_, _, _, k⟩ => .work (s.skipBits_evolves .bit2 3) hs fun t ht =>
      .work (t.skipBytes_evolves .litc 2) ht fun u hu => .work (u.putPixel_evolves ..) hu fun _ hv =>
        State.pixelDone_canonical hv k)
  | dtab signs mags =>
    exact .finish hs (.value fun _ => .value fun _ => .value fun _ => .work (s.skipBytes_evolves .tabc 512) hs
      fun t ht => .work (t.skipBytes_evolves .tabc 1024) ht fun _ hu => State.tableDone_canonical hu _)
  | dtConst =>
    exact .finish hs (.value fun _ => .value fun _ => .value fun _ => State.tableDone_canonical hs _)
  | mbRefCopy =>
    exact .finish hs (.value fun ⟨_, _⟩ => .work (s.skipBits_evolves .bit1 2) hs fun t ht =>
      .work (t.copyRef_evolves ..) ht fun _ hu => State.nextMb_canonical hu)
  | mbMv a b => exact execMbMv_canonical hs a b
  | mbMcCopy =>
    exact .finish hs (.value fun ⟨_, _⟩ => .value fun _ => .work (s.skipBits_evolves .bit1 1) hs fun t ht =>
      .work (t.copyRef_evolves ..) ht fun _ hu => State.nextMb_canonical hu)
  | mbMvZero | mbMcSub | mbSub2 | embCells =>
    exact .finish hs (.value fun _ => .work (s.skipBits_evolves .bit1 _) hs fun _ ht => .ok ht)
  | gate => exact execGate_canonical hs
  | s3CopyRef =>
    exact .finish hs (.value fun _ => .work (s.skipBits_evolves .bit1 3) hs fun t ht => .value fun ⟨_, _⟩ =>
      .work (t.copyRef_evolves ..) ht fun _ hu => State.nextSub_canonical hu _)
  | s3CopyMv => exact execS3CopyMv_canonical hs
  | embSkip1 => exact .finish hs (.value fun _ => .value fun _ => .error)
  | embLitCell lits =>
    exact .finish hs (.value fun ⟨⟨_, _⟩, _, _⟩ => .value fun _ => .work (s.skipBytes_evolves .edgelit _) hs fun t ht =>
      .work (t.fillRect_evolves ..) ht fun _ hu => State.nextSub_canonical hu _)
  | value v =>
    exact .finish hs (.value fun _ => .work (s.skipBytes_evolves .idx _) hs fun _ ht => .ok ht)
  | w2Lit pair =>
    exact .finish hs (.value fun _ => .work (s.skipBytes_evolves .lit 4) hs fun t ht =>
      .work ((t.emitPair_yields pair).mono fun _ h => h.evolves) ht fun _ hu => State.w2Next_canonical hu)
  | w2Run idx run =>
    exact .finish hs (.value fun _ => .value fun _ => .value fun _ => .value fun _ =>
      .work (State.skipBytes_evolves _ .run _) hs fun _ ht => .value fun _ => .value fun _ =>
        .work ((State.emitPairs_yields _ _ _).mono fun _ h => h.evolves) ht fun _ hu => State.w2Next_canonical hu)
  | d2Strip1 q =>
    exact .finish hs (.value fun _ => .work (s.skipBytes_evolves .d2l 4) hs fun t ht =>
      .work (t.putIbufBytes_evolves _ _) ht fun _ hu => .ok hu)
  | d2Value code payload => exact execD2Value_canonical hs code payload
  | d2Dist flag update => exact execD2Dist_canonical hs flag update
  | d2StripSel code kind =>
    exact .finish hs (.value fun _ => .value fun _ => .work (s.skipBits_evolves .d2b _) hs fun _ ht => .ok ht)
  | d2Verb bytes =>
    exact .finish hs (.value fun _ => .value fun _ => .work (s.skipBytes_evolves .d2l 16) hs fun t ht =>
      .work (t.appendIbuf_evolves bytes) ht fun _ hu => State.d2Next_canonical hu)
  | d2Back =>
    exact .finish hs (.value fun _ => .work (s.appendBack_evolves 16) hs fun _ ht => State.d2Next_canonical ht)
  | d2Strip2 fromBits mask =>
    exact .finish hs (.value fun _ => .value fun _ => .ite
      (fun _ => .work (s.skipBits_evolves .d2b 8) hs fun _ ht => .ok ht) fun _ =>
        .work (s.skipBytes_evolves .d2mask 1) hs fun _ ht => .ok ht)
  | d2Tail bytes =>
    exact .finish hs (.value fun _ => .value fun _ => .value fun _ => .value fun _ =>
      .work (s.skipBytes_evolves .d2l _) hs fun t ht => .work (t.appendIbuf_evolves bytes) ht fun _ hu =>
        State.d2Next_canonical hu)
  | dispatchIntra =>
    exact .finish hs (.value fun _ => .value fun ⟨_, _⟩ => .ite (fun _ => .error) fun _ =>
      State.buildTable_canonical (State.enterUnit_canonical hs _ rfl))
  | dispatchInter =>
    exact .finish hs (.value fun _ => .value fun ⟨_, _⟩ => .value fun _ =>
      State.buildTable_canonical (State.enterUnit_canonical hs _ (s.interFrame_wf _ _)))
  | dispatchW2D1 =>
    exact .finish hs (.value fun _ => .value fun _ =>
      State.startW2D1_canonical (s := s.enterUnit .w2d1 []) (State.enterUnit_canonical hs _ rfl) ..)
  | dispatchW2D2 => exact execDispatchW2D2_canonical hs
  | dispatchExtra | dispatchMode => exact .finish hs (.value fun _ => .error)
  | decode packet stride cap => exact execDecode_canonical hs packet stride cap
  | reset => exact execReset_canonical hs

/-! ### The step -/

theorem State.issue_canonical : s.issue.canonical = true := by
  unfold State.issue
  split
  · exact hs
  · exact hs

theorem State.runNext_canonical : LeadsToCanonical s.runNext := by
  unfold State.runNext
  split
  · exact exec_canonical (State.issue_canonical hs) _
  · exact .finish hs .error

theorem step_canonical : LeadsToCanonical (step s) := by
  unfold step
  split
  · exact .finish hs (State.orchestrate_canonical hs)
  · exact .finish hs (State.partialFrame_canonical hs)
  · exact .finish hs (State.complete_canonical hs)
  · split
    · rintro _ ⟨⟩
      exact hs
    · exact State.runNext_canonical hs
  · exact State.runNext_canonical hs

end

/-- Settles O53: work keeps the form (`Evolves.canonical`), every meaning leads to it (`exec_canonical`), and so does
every silent step (`step_canonical`). -/
theorem canonicalStep : Obligations.CanonicalStep := by
  unfold Obligations.CanonicalStep
  exact fun _ t hs => step_canonical hs t

end Sys2Proof.Machine
